-- ==== Sys2Proof/Word.lean ====
section
/-! DEFINITION. The machine's word types: the 8-bit data byte, the 16-bit word, the 12-bit address
field and the 4-bit register and key indices (spec 00_scope.md R7, R8). -/

namespace Sys2Proof

/-- A memory byte or a general register's value. -/
abbrev Byte := BitVec 8

/-- A 16-bit value: an instruction word, PC, I, a stack slot. -/
abbrev Word := BitVec 16

/-- The 12-bit address field NNN of an instruction (30_encoding.md R49). -/
abbrev Addr12 := BitVec 12

/-- A general register's index, the value of a 4-bit field (10_state.md R15). -/
abbrev RegIdx := Fin 16

/-- A key's number (10_state.md R28). -/
abbrev KeyIdx := Fin 16

end Sys2Proof
end

