-- ==== Sys2Proof/Syntax.lean ====
section
/-! DEFINITION. The instructions: one constructor for each of the 34 rows of the opcode map
(30_encoding.md R53). The operands have exactly the widths of their fields (R49), so every term is
an instruction that some word encodes. -/

namespace Sys2Proof

/-- An instruction of the engine, in the order of 30_encoding.md R53. -/
inductive Instr where
  /-- 00E0, CLS (R71). -/
  | cls
  /-- 00EE, RET (R73). -/
  | ret
  /-- 1NNN, JP nnn (R74). -/
  | jp (nnn : Addr12)
  /-- 2NNN, CALL nnn (R75). -/
  | call (nnn : Addr12)
  /-- 3XNN, SE Vx, nn (R78). -/
  | seImm (x : RegIdx) (nn : Byte)
  /-- 4XNN, SNE Vx, nn (R79). -/
  | sneImm (x : RegIdx) (nn : Byte)
  /-- 5XY0, SE Vx, Vy (R80). -/
  | seReg (x y : RegIdx)
  /-- 6XNN, LD Vx, nn (R85). -/
  | ldImm (x : RegIdx) (nn : Byte)
  /-- 7XNN, ADD Vx, nn (R86). -/
  | addImm (x : RegIdx) (nn : Byte)
  /-- 8XY0, LD Vx, Vy (R87). -/
  | ldReg (x y : RegIdx)
  /-- 8XY1, OR Vx, Vy (R88). -/
  | orReg (x y : RegIdx)
  /-- 8XY2, AND Vx, Vy (R89). -/
  | andReg (x y : RegIdx)
  /-- 8XY3, XOR Vx, Vy (R90). -/
  | xorReg (x y : RegIdx)
  /-- 8XY4, ADD Vx, Vy (R91). -/
  | addReg (x y : RegIdx)
  /-- 8XY5, SUB Vx, Vy (R92). -/
  | subReg (x y : RegIdx)
  /-- 8XY6, SHR Vx (R93). Y is encoded and not read. -/
  | shr (x y : RegIdx)
  /-- 8XY7, SUBN Vx, Vy (R94). -/
  | subn (x y : RegIdx)
  /-- 8XYE, SHL Vx (R95). Y is encoded and not read. -/
  | shl (x y : RegIdx)
  /-- 9XY0, SNE Vx, Vy (R81). -/
  | sneReg (x y : RegIdx)
  /-- ANNN, LD I, nnn (R97). -/
  | ldI (nnn : Addr12)
  /-- BNNN, JP V0, nnn (R76). -/
  | jpV0 (nnn : Addr12)
  /-- CXNN, RND Vx, nn (R96). -/
  | rnd (x : RegIdx) (nn : Byte)
  /-- DXYN, DRW Vx, Vy, n (R72). -/
  | drw (x y : RegIdx) (n : BitVec 4)
  /-- EX9E, SKP Vx (R82). -/
  | skp (x : RegIdx)
  /-- EXA1, SKNP Vx (R83). -/
  | sknp (x : RegIdx)
  /-- FX07, LD Vx, DT (R103). -/
  | ldVxDt (x : RegIdx)
  /-- FX0A, LD Vx, K (R104). -/
  | ldVxK (x : RegIdx)
  /-- FX15, LD DT, Vx (R105). -/
  | ldDtVx (x : RegIdx)
  /-- FX18, LD ST, Vx (R106). -/
  | ldStVx (x : RegIdx)
  /-- FX1E, ADD I, Vx (R98). -/
  | addI (x : RegIdx)
  /-- FX29, LD F, Vx (R99). -/
  | ldF (x : RegIdx)
  /-- FX33, LD B, Vx (R100). -/
  | ldB (x : RegIdx)
  /-- FX55, LD [I], Vx (R101). -/
  | stRegs (x : RegIdx)
  /-- FX65, LD Vx, [I] (R102). -/
  | ldRegs (x : RegIdx)
  deriving DecidableEq, Repr

end Sys2Proof
end

