-- ==== Sys2Proof/WellFormed.lean ====
section
/-! DEFINITION. Which 16-bit words are well-formed instructions: the opcode map as masks and
matches, written from 30_encoding.md R53 and independent of the decoder. Every term of `Instr` is
well formed by its fields' types; what can be ill formed is a word. DESIGN CHOICE (log entry 8). -/

namespace Sys2Proof

/-- A row of the opcode map: a word `w` is the row's instruction iff `w & mask = value`
(30_encoding.md R53). -/
structure OpcodeRow where
  pattern : String
  mask : Word
  value : Word
  deriving DecidableEq, Repr

/-- Does the row's mask and match take the word (30_encoding.md R53)? -/
def OpcodeRow.covers (r : OpcodeRow) (w : Word) : Bool := w &&& r.mask == r.value

/-- Rows 1 to 9 of 30_encoding.md R53: families 0 to 7. -/
def opcodeRowsLow : List OpcodeRow :=
  [⟨"00E0", 0xFFFF, 0x00E0⟩, ⟨"00EE", 0xFFFF, 0x00EE⟩, ⟨"1NNN", 0xF000, 0x1000⟩,
   ⟨"2NNN", 0xF000, 0x2000⟩, ⟨"3XNN", 0xF000, 0x3000⟩, ⟨"4XNN", 0xF000, 0x4000⟩,
   ⟨"5XY0", 0xF00F, 0x5000⟩, ⟨"6XNN", 0xF000, 0x6000⟩, ⟨"7XNN", 0xF000, 0x7000⟩]

/-- Rows 10 to 18 of 30_encoding.md R53: family 8. -/
def opcodeRowsAlu : List OpcodeRow :=
  [⟨"8XY0", 0xF00F, 0x8000⟩, ⟨"8XY1", 0xF00F, 0x8001⟩, ⟨"8XY2", 0xF00F, 0x8002⟩,
   ⟨"8XY3", 0xF00F, 0x8003⟩, ⟨"8XY4", 0xF00F, 0x8004⟩, ⟨"8XY5", 0xF00F, 0x8005⟩,
   ⟨"8XY6", 0xF00F, 0x8006⟩, ⟨"8XY7", 0xF00F, 0x8007⟩, ⟨"8XYE", 0xF00F, 0x800E⟩]

/-- Rows 19 to 34 of 30_encoding.md R53: families 9 to F. -/
def opcodeRowsHigh : List OpcodeRow :=
  [⟨"9XY0", 0xF00F, 0x9000⟩, ⟨"ANNN", 0xF000, 0xA000⟩, ⟨"BNNN", 0xF000, 0xB000⟩,
   ⟨"CXNN", 0xF000, 0xC000⟩, ⟨"DXYN", 0xF000, 0xD000⟩, ⟨"EX9E", 0xF0FF, 0xE09E⟩,
   ⟨"EXA1", 0xF0FF, 0xE0A1⟩, ⟨"FX07", 0xF0FF, 0xF007⟩, ⟨"FX0A", 0xF0FF, 0xF00A⟩,
   ⟨"FX15", 0xF0FF, 0xF015⟩, ⟨"FX18", 0xF0FF, 0xF018⟩, ⟨"FX1E", 0xF0FF, 0xF01E⟩,
   ⟨"FX29", 0xF0FF, 0xF029⟩, ⟨"FX33", 0xF0FF, 0xF033⟩, ⟨"FX55", 0xF0FF, 0xF055⟩,
   ⟨"FX65", 0xF0FF, 0xF065⟩]

/-- The complete opcode map, 34 rows (30_encoding.md R53). -/
def opcodeMap : List OpcodeRow := opcodeRowsLow ++ (opcodeRowsAlu ++ opcodeRowsHigh)

/-- A word is well formed iff it matches a row of the opcode map (30_encoding.md R53); every other
word is illegal (R59). -/
def wordLegal (w : Word) : Bool := opcodeMap.any (fun r => r.covers w)

/-- The row of 30_encoding.md R53 that an instruction stands for, by its pattern. -/
def Instr.pattern : Instr → String
  | .cls => "00E0"
  | .ret => "00EE"
  | .jp _ => "1NNN"
  | .call _ => "2NNN"
  | .seImm _ _ => "3XNN"
  | .sneImm _ _ => "4XNN"
  | .seReg _ _ => "5XY0"
  | .ldImm _ _ => "6XNN"
  | .addImm _ _ => "7XNN"
  | .ldReg _ _ => "8XY0"
  | .orReg _ _ => "8XY1"
  | .andReg _ _ => "8XY2"
  | .xorReg _ _ => "8XY3"
  | .addReg _ _ => "8XY4"
  | .subReg _ _ => "8XY5"
  | .shr _ _ => "8XY6"
  | .subn _ _ => "8XY7"
  | .shl _ _ => "8XYE"
  | .sneReg _ _ => "9XY0"
  | .ldI _ => "ANNN"
  | .jpV0 _ => "BNNN"
  | .rnd _ _ => "CXNN"
  | .drw _ _ _ => "DXYN"
  | .skp _ => "EX9E"
  | .sknp _ => "EXA1"
  | .ldVxDt _ => "FX07"
  | .ldVxK _ => "FX0A"
  | .ldDtVx _ => "FX15"
  | .ldStVx _ => "FX18"
  | .addI _ => "FX1E"
  | .ldF _ => "FX29"
  | .ldB _ => "FX33"
  | .stRegs _ => "FX55"
  | .ldRegs _ => "FX65"

/-- The word is covered by the map's row of that pattern. -/
def coveredByPattern (p : String) (w : Word) : Bool :=
  opcodeMap.any (fun r => r.pattern == p && r.covers w)

end Sys2Proof
end

