-- ==== Sys2Proof/Decode.lean ====
section
/-! DEFINITION. The two-stage decoder (30_encoding.md R48-R59), total on any bytes, and the encoder
written from the same table. -/

namespace Sys2Proof

/-- Why bytes are no instruction. Each is an illegal word (30_encoding.md R59), for which the step
takes UnknownInstructionError (60_exceptions.md R108), but `truncated`, which only a list of fewer
than two bytes gives and no fetch can. -/
inductive DecodeReject where
  /-- Family 0 with NNN other than 0x0E0 and 0x0EE (R54). -/
  | family0 (nnn : Addr12)
  /-- Family 5 with N other than 0 (R55). -/
  | family5 (n : BitVec 4)
  /-- Family 8 with N in 8 to D or F (R56). -/
  | family8 (n : BitVec 4)
  /-- Family 9 with N other than 0 (R55). -/
  | family9 (n : BitVec 4)
  /-- Family E with NN other than 0x9E and 0xA1 (R57). -/
  | familyE (nn : Byte)
  /-- Family F with NN none of the nine selectors (R58). -/
  | familyF (nn : Byte)
  /-- Fewer than two bytes. -/
  | truncated
  deriving DecidableEq, Repr

/-- `w[15:12]`, the operation family (R49). -/
def opField (w : Word) : BitVec 4 := w.extractLsb' 12 4

/-- `w[11:8]`, the register index X (R49). -/
def xField (w : Word) : RegIdx := (w.extractLsb' 8 4).toFin

/-- `w[7:4]`, the register index Y (R49). -/
def yField (w : Word) : RegIdx := (w.extractLsb' 4 4).toFin

/-- `w[3:0]`, the low nibble N (R49). -/
def nField (w : Word) : BitVec 4 := w.extractLsb' 0 4

/-- `w[7:0]`, the low byte NN (R49). -/
def nnField (w : Word) : Byte := w.extractLsb' 0 8

/-- `w[11:0]`, the low 12 bits NNN (R49). -/
def nnnField (w : Word) : Addr12 := w.extractLsb' 0 12

/-- Family 0: NNN selects (R54). -/
def decodeFamily0 (w : Word) : Except DecodeReject Instr :=
  match (nnnField w).toNat with
  | 0x0E0 => .ok .cls
  | 0x0EE => .ok .ret
  | _ => .error (.family0 (nnnField w))

/-- Family 5: N must be 0 (R55). -/
def decodeFamily5 (w : Word) : Except DecodeReject Instr :=
  match (nField w).toNat with
  | 0x0 => .ok (.seReg (xField w) (yField w))
  | _ => .error (.family5 (nField w))

/-- Family 8: N selects (R56). -/
def decodeFamily8 (w : Word) : Except DecodeReject Instr :=
  match (nField w).toNat with
  | 0x0 => .ok (.ldReg (xField w) (yField w))
  | 0x1 => .ok (.orReg (xField w) (yField w))
  | 0x2 => .ok (.andReg (xField w) (yField w))
  | 0x3 => .ok (.xorReg (xField w) (yField w))
  | 0x4 => .ok (.addReg (xField w) (yField w))
  | 0x5 => .ok (.subReg (xField w) (yField w))
  | 0x6 => .ok (.shr (xField w) (yField w))
  | 0x7 => .ok (.subn (xField w) (yField w))
  | 0xE => .ok (.shl (xField w) (yField w))
  | _ => .error (.family8 (nField w))

/-- Family 9: N must be 0 (R55). -/
def decodeFamily9 (w : Word) : Except DecodeReject Instr :=
  match (nField w).toNat with
  | 0x0 => .ok (.sneReg (xField w) (yField w))
  | _ => .error (.family9 (nField w))

/-- Family E: NN selects (R57). -/
def decodeFamilyE (w : Word) : Except DecodeReject Instr :=
  match (nnField w).toNat with
  | 0x9E => .ok (.skp (xField w))
  | 0xA1 => .ok (.sknp (xField w))
  | _ => .error (.familyE (nnField w))

/-- Family F: NN selects (R58). -/
def decodeFamilyF (w : Word) : Except DecodeReject Instr :=
  match (nnField w).toNat with
  | 0x07 => .ok (.ldVxDt (xField w))
  | 0x0A => .ok (.ldVxK (xField w))
  | 0x15 => .ok (.ldDtVx (xField w))
  | 0x18 => .ok (.ldStVx (xField w))
  | 0x1E => .ok (.addI (xField w))
  | 0x29 => .ok (.ldF (xField w))
  | 0x33 => .ok (.ldB (xField w))
  | 0x55 => .ok (.stRegs (xField w))
  | 0x65 => .ok (.ldRegs (xField w))
  | _ => .error (.familyF (nnField w))

/-- The instruction a 16-bit word is, or the name of what is wrong with it: the family first, then
the selector where the family has one (R52). The last arm is family F. -/
def decodeWord (w : Word) : Except DecodeReject Instr :=
  match (opField w).toNat with
  | 0x0 => decodeFamily0 w
  | 0x1 => .ok (.jp (nnnField w))
  | 0x2 => .ok (.call (nnnField w))
  | 0x3 => .ok (.seImm (xField w) (nnField w))
  | 0x4 => .ok (.sneImm (xField w) (nnField w))
  | 0x5 => decodeFamily5 w
  | 0x6 => .ok (.ldImm (xField w) (nnField w))
  | 0x7 => .ok (.addImm (xField w) (nnField w))
  | 0x8 => decodeFamily8 w
  | 0x9 => decodeFamily9 w
  | 0xA => .ok (.ldI (nnnField w))
  | 0xB => .ok (.jpV0 (nnnField w))
  | 0xC => .ok (.rnd (xField w) (nnField w))
  | 0xD => .ok (.drw (xField w) (yField w) (nField w))
  | 0xE => decodeFamilyE w
  | _ => decodeFamilyF w

/-- Two bytes big-endian, the first in bits 15:8 (20_memory.md R40). -/
def joinBytes (hi lo : Byte) : Word := hi ++ lo

/-- The byte of a word at the lower address (20_memory.md R40). -/
def highByte (w : Word) : Byte := w.extractLsb' 8 8

/-- The byte of a word at the higher address (20_memory.md R40). -/
def lowByte (w : Word) : Byte := w.extractLsb' 0 8

/-- The instruction at the front of a list of bytes, with the bytes after it (R48). -/
def decodeBytes : List Byte → Except DecodeReject (Instr × List Byte)
  | hi :: lo :: rest =>
    match decodeWord (joinBytes hi lo) with
    | .ok i => .ok (i, rest)
    | .error e => .error e
  | _ => .error .truncated

/-- A register index as its 4-bit field (R51). -/
def regBits (x : RegIdx) : BitVec 4 := BitVec.ofFin x

/-- Formats `XK`, family and NN around X (R49). -/
def encodeXK (op : BitVec 4) (x : RegIdx) (nn : Byte) : Word := op ++ (regBits x ++ nn)

/-- Formats `XY` and `XYN` (R49). -/
def encodeXYN (op : BitVec 4) (x y : RegIdx) (n : BitVec 4) : Word :=
  op ++ (regBits x ++ (regBits y ++ n))

/-- Formats `A` and `O` (R49). -/
def encodeA (op : BitVec 4) (nnn : Addr12) : Word := op ++ nnn

/-- The word that encodes an instruction (R49, R53). -/
def encode : Instr → Word
  | .cls => encodeA 0x0 0x0E0
  | .ret => encodeA 0x0 0x0EE
  | .jp nnn => encodeA 0x1 nnn
  | .call nnn => encodeA 0x2 nnn
  | .seImm x nn => encodeXK 0x3 x nn
  | .sneImm x nn => encodeXK 0x4 x nn
  | .seReg x y => encodeXYN 0x5 x y 0x0
  | .ldImm x nn => encodeXK 0x6 x nn
  | .addImm x nn => encodeXK 0x7 x nn
  | .ldReg x y => encodeXYN 0x8 x y 0x0
  | .orReg x y => encodeXYN 0x8 x y 0x1
  | .andReg x y => encodeXYN 0x8 x y 0x2
  | .xorReg x y => encodeXYN 0x8 x y 0x3
  | .addReg x y => encodeXYN 0x8 x y 0x4
  | .subReg x y => encodeXYN 0x8 x y 0x5
  | .shr x y => encodeXYN 0x8 x y 0x6
  | .subn x y => encodeXYN 0x8 x y 0x7
  | .shl x y => encodeXYN 0x8 x y 0xE
  | .sneReg x y => encodeXYN 0x9 x y 0x0
  | .ldI nnn => encodeA 0xA nnn
  | .jpV0 nnn => encodeA 0xB nnn
  | .rnd x nn => encodeXK 0xC x nn
  | .drw x y n => encodeXYN 0xD x y n
  | .skp x => encodeXK 0xE x 0x9E
  | .sknp x => encodeXK 0xE x 0xA1
  | .ldVxDt x => encodeXK 0xF x 0x07
  | .ldVxK x => encodeXK 0xF x 0x0A
  | .ldDtVx x => encodeXK 0xF x 0x15
  | .ldStVx x => encodeXK 0xF x 0x18
  | .addI x => encodeXK 0xF x 0x1E
  | .ldF x => encodeXK 0xF x 0x29
  | .ldB x => encodeXK 0xF x 0x33
  | .stRegs x => encodeXK 0xF x 0x55
  | .ldRegs x => encodeXK 0xF x 0x65

/-- The two bytes of an instruction as memory holds them (20_memory.md R40). -/
def encodeBytes (i : Instr) : List Byte := [highByte (encode i), lowByte (encode i)]

/-- The 16-bit word that the opcode table's number `w` of `nbits` bits stands for: the bits above
`nbits` are zero (log entry 7). -/
def tableWord (nbits w : Nat) : Word := BitVec.ofNat 16 (w % 2 ^ nbits)

/-- The instruction the decoder reads from the opcode table's number `w`, its word laid out
big-endian (20_memory.md R40). -/
def decodeTableWord (nbits w : Nat) : Option Instr :=
  match decodeBytes [highByte (tableWord nbits w), lowByte (tableWord nbits w)] with
  | .ok (i, _) => some i
  | .error _ => none

end Sys2Proof
end

