-- ==== Sys2Proof/Config.lean ====
section
/-! DEFINITION. What an implementation fixes (00_scope.md R7) and the free values. -/

namespace Sys2Proof

/-- One less than the OPEN parameter TIMER_DIVIDER (00_scope.md R7, decision D16), uninterpreted:
the spec gives no value and only says that TIMER_DIVIDER is an integer of at least 1.
DESIGN CHOICE (log entry 2). -/
opaque Config.timerDividerLessOne : Nat

/-- TIMER_DIVIDER of the machine that `State.reset` describes: some integer of at least 1. -/
def Config.timerDivider : Nat := Config.timerDividerLessOne + 1

/-- The `k`-th random byte that is taken when the host has presented none: a free value
(10_state.md R31, 60_exceptions.md R121). DESIGN CHOICE (log entry 3). -/
opaque Config.randomByte : Nat → Byte

/-- GRID_W, the columns of the pixel grid (00_scope.md R7, decision D1). -/
abbrev Config.gridW : Nat := 64

/-- GRID_H, the rows of the pixel grid (00_scope.md R7, decision D1). -/
abbrev Config.gridH : Nat := 32

/-- MEM_SIZE (00_scope.md R7). -/
abbrev Config.memSize : Nat := 4096

/-- PROG_BASE (00_scope.md R7). -/
abbrev Config.progBase : Nat := 0x200

/-- PROG_MAX, the bytes of program space (00_scope.md R7). -/
abbrev Config.progMax : Nat := 3584

/-- FONT_BASE (00_scope.md R7). -/
abbrev Config.fontBase : Nat := 0x050

/-- The glyphs of the digits 0 to 7 (20_memory.md R37). -/
def Config.fontLow : List Byte :=
  [0xF0, 0x90, 0x90, 0x90, 0xF0,
   0x20, 0x60, 0x20, 0x20, 0x70,
   0xF0, 0x10, 0xF0, 0x80, 0xF0,
   0xF0, 0x10, 0xF0, 0x10, 0xF0,
   0x90, 0x90, 0xF0, 0x10, 0x10,
   0xF0, 0x80, 0xF0, 0x10, 0xF0,
   0xF0, 0x80, 0xF0, 0x90, 0xF0,
   0xF0, 0x10, 0x20, 0x40, 0x40]

/-- The glyphs of the digits 8 to F (20_memory.md R37). -/
def Config.fontHigh : List Byte :=
  [0xF0, 0x90, 0xF0, 0x90, 0xF0,
   0xF0, 0x90, 0xF0, 0x10, 0xF0,
   0xF0, 0x90, 0xF0, 0x90, 0x90,
   0xE0, 0x90, 0xE0, 0x90, 0xE0,
   0xF0, 0x80, 0x80, 0x80, 0xF0,
   0xE0, 0x90, 0x90, 0x90, 0xE0,
   0xF0, 0x80, 0xF0, 0x80, 0xF0,
   0xF0, 0x80, 0xF0, 0x80, 0x80]

/-- FONT, the 80 font bytes from 0x050 upward, five to a glyph (20_memory.md R37, decision D2). -/
def Config.font : List Byte := Config.fontLow ++ Config.fontHigh

end Sys2Proof
end

