-- ==== Sys2Proof/Machine/State.lean ====
section
/-! DEFINITION. The machine's state as plain data (10_state.md R15-R33), what can stop a step, and
the state after reset (R32). -/

namespace Sys2Proof.Machine

/-- The memory, 4096 bytes (10_state.md R25): the bytes that differ from their reset contents, as
(address, byte) pairs with addresses strictly rising. What an unlisted address reads as is
`Memory.initByte`. -/
abbrev Memory := List Host.Cell

/-- The pixel grid, `G[y][x]`: 32 rows of 64 cells (10_state.md R26). -/
abbrev Grid := Vector (Vector Bool Config.gridW) Config.gridH

/-- The values of FAULT_CODE (10_state.md R29, 60_exceptions.md R107). -/
inductive FaultCode where
  /-- 0 NONE: the engine runs. -/
  | noFault
  /-- 1 UNKNOWN_INSTRUCTION: a fetched word matches no row of the opcode map (R108). -/
  | unknownInstruction
  /-- 2 STACK_OVERFLOW: 2NNN with SP = 16 (R109). -/
  | stackOverflow
  /-- 3 STACK_UNDERFLOW: 00EE with SP = 0 (R110). -/
  | stackUnderflow
  /-- 4 KEY_INDEX: EX9E or EXA1 with VX > 15 (R112). -/
  | keyIndex
  deriving DecidableEq, Repr

/-- Everything the spec gives the engine (10_state.md R32), and three fields of the model's own at
the end that hold the step's parameter and inputs (R31). -/
structure State where
  /-- V0-VF (R15); VF is also the flag register (R16). -/
  v : Vector Byte 16
  /-- The address register I (R17). -/
  i : Word
  /-- The program counter (R18). -/
  pc : Word
  /-- The stack pointer, in [0, 16]: how many slots are occupied (R20). -/
  sp : Fin 17
  /-- The call stack's slots (R21). -/
  stack : Vector Word 16
  /-- The delay timer (R22). -/
  dt : Byte
  /-- The sound timer (R23). -/
  st : Byte
  /-- The timer divider counter TC (R24). -/
  tc : Nat
  /-- The byte memory (R25). -/
  mem : Memory
  /-- The pixel grid (R26). -/
  grid : Grid
  /-- The frame-changed flag FC (R27). -/
  fc : Bool
  /-- The keypad: key k is down (R28). -/
  keys : Vector Bool 16
  /-- FAULT_CODE (R29). -/
  faultCode : FaultCode
  /-- FAULT_PC (R29). -/
  faultPc : Word
  /-- FAULT_WORD (R29). -/
  faultWord : Word
  /-- The model's own: the open parameter TIMER_DIVIDER (R31, 00_scope.md R7; log entry 2). -/
  divider : Nat
  /-- The model's own: random bytes the host has presented and no CXNN has taken yet
  (R31, 60_exceptions.md R121; log entry 3). -/
  rndIn : List Byte
  /-- The model's own: how many random bytes were taken as free values (log entry 3). -/
  draws : Nat
  deriving DecidableEq, Repr

/-- Why a step could stop. There is no such reason: the spec describes the entry of each of its four
faults (60_exceptions.md R111), so the machine takes it as a next state with the fault record
written, and every later step is a next state too (40_cycle.md R63). Nobody raises this type. -/
inductive Fault where
  deriving DecidableEq, Repr

/-- Why an instruction could have no meaning. -/
inductive Refusal where
  /-- Raised by an arm of `exec` whose instruction has no meaning yet; no arm raises it. Safe. -/
  | notModelled (mnemonic : String)
  deriving DecidableEq, Repr

/-- The state after reset of a machine whose TIMER_DIVIDER is `d` (10_state.md R32,
70_reset_and_hazards.md R127, R128). -/
def State.resetWith (d : Nat) : State where
  v := Vector.replicate 16 0
  i := 0
  pc := 0x200
  sp := 0
  stack := Vector.replicate 16 0
  dt := 0
  st := 0
  tc := d
  mem := []
  grid := Vector.replicate Config.gridH (Vector.replicate Config.gridW false)
  fc := false
  keys := Vector.replicate 16 false
  faultCode := .noFault
  faultPc := 0
  faultWord := 0
  divider := d
  rndIn := []
  draws := 0

/-- The machine right after reset (10_state.md R32). DESIGN CHOICE (log entries 2 and 3): the
divider is `Config.timerDivider`, no random byte is presented and none was drawn. -/
def State.reset : State := State.resetWith Config.timerDivider

end Sys2Proof.Machine
end

