-- ==== Sys2Proof/Machine/Memory.lean ====
section
/-! DEFINITION. The byte memory's operations over its canonical list (20_memory.md R34-R43). -/

namespace Sys2Proof.Machine

/-- What the byte at `a` reads as until something writes it: the reset contents, the font at
0x050-0x09F and zero elsewhere (20_memory.md R36, R37; 10_state.md R25). -/
def Memory.initByte (a : Nat) : Byte :=
  if Config.fontBase ≤ a then Config.font.getD (a - Config.fontBase) 0 else 0

/-- The byte at address `a`. -/
def Memory.lookup : Memory → Nat → Byte
  | [], a => Memory.initByte a
  | c :: m, a => if c.1 = a then c.2 else Memory.lookup m a

/-- The list without an entry for `a`. -/
def Memory.erase : Memory → Nat → Memory
  | [], _ => []
  | c :: m, a => if c.1 = a then m else c :: Memory.erase m a

/-- The list with the entry `(a, b)` in its place in the rising order. -/
def Memory.insert : Memory → Nat → Byte → Memory
  | [], a, b => [(a, b)]
  | c :: m, a, b =>
    if a < c.1 then (a, b) :: c :: m
    else if c.1 = a then (a, b) :: m
    else c :: Memory.insert m a b

/-- The memory with byte `b` at address `a`, in canonical form: a byte equal to what an unlisted
address reads as is not listed. -/
def Memory.store (m : Memory) (a : Nat) (b : Byte) : Memory :=
  if b = Memory.initByte a then Memory.erase m a else Memory.insert m a b

/-- The canonical form: addresses strictly rising and inside the 4096 bytes, and no entry equal to
what an unlisted address reads as. -/
abbrev Memory.wf (m : Memory) : Prop :=
  m.Pairwise (fun c d => c.1 < d.1) ∧
    ∀ c ∈ m, c.1 < Config.memSize ∧ c.2 ≠ Memory.initByte c.1

/-- The address a computed address reaches: reduced mod 4096 (20_memory.md R39). -/
def maskAddr (a : Nat) : Nat := a % Config.memSize

/-- `MemRead(a, 1)` (00_scope.md R11, 20_memory.md R39). -/
def State.readByte (s : State) (a : Nat) : Byte := s.mem.lookup (maskAddr a)

/-- The state with another memory. -/
def State.setMem (s : State) (m : Memory) : State := { s with mem := m }

/-- `MemWrite(a, 1, b)` (00_scope.md R11, 20_memory.md R39). -/
def State.writeByte (s : State) (a : Nat) (b : Byte) : State :=
  s.setMem (s.mem.store (maskAddr a) b)

/-- Bytes stored at rising computed addresses from `a`, in order (20_memory.md R41). -/
def Memory.storeBytes : Memory → Nat → List Byte → Memory
  | m, _, [] => m
  | m, a, b :: bs => Memory.storeBytes (m.store (maskAddr a) b) (a + 1) bs

/-- Bytes written at rising addresses from `a`, in order (20_memory.md R41, 60_exceptions.md R124). -/
def State.writeBytes (s : State) (a : Nat) (bs : List Byte) : State :=
  s.setMem (s.mem.storeBytes a bs)

end Sys2Proof.Machine
end

