-- ==== Sys2Proof/Machine/Operands.lean ====
section
/-! DEFINITION. The operand forms (30_encoding.md R50, R51) and the addresses and digits the
instructions form from them. -/

namespace Sys2Proof.Machine

/-- `zext_16(nnn)` (30_encoding.md R50). -/
def zext16 (nnn : Addr12) : Word := nnn.setWidth 16

/-- A register's byte widened to 16 bits with zeros (00_scope.md R9). -/
def widen (b : Byte) : Word := b.setWidth 16

/-- The computed address `I + k`, an exact sum that the access reduces mod 4096
(45_index_memory.md, its one addressing mode; 20_memory.md R39). -/
def State.indexAddr (s : State) (k : Nat) : Nat := s.i.toNat + k

/-- The glyph address of a digit, with the full 8-bit value (45_index_memory.md R99). -/
def fontAddr (d : Byte) : Word := BitVec.ofNat 16 (Config.fontBase + 5 * d.toNat)

/-- The target of BNNN (42_flow.md R76). -/
def offsetTarget (nnn : Addr12) (v0 : Byte) : Word := zext16 nnn + widen v0

/-- The key a register's value numbers, if it is one of the 16 (43_skip.md R82). -/
def keyOperand (b : Byte) : Option KeyIdx :=
  if h : b.toNat < 16 then some ⟨b.toNat, h⟩ else none

/-- The hundreds digit (45_index_memory.md R100). -/
def hundredsDigit (b : Byte) : Byte := BitVec.ofNat 8 (b.toNat / 100)

/-- The tens digit (45_index_memory.md R100). -/
def tensDigit (b : Byte) : Byte := BitVec.ofNat 8 (b.toNat / 10 % 10)

/-- The units digit (45_index_memory.md R100). -/
def unitsDigit (b : Byte) : Byte := BitVec.ofNat 8 (b.toNat % 10)

/-- `V[0]` .. `V[x]` in order, the registers FX55 stores (45_index_memory.md R101). -/
def State.regPrefix (s : State) (x : RegIdx) : List Byte := s.v.toList.take (x.val + 1)

end Sys2Proof.Machine
end

