-- ==== Sys2Proof/Machine/Ops.lean ====
section
/-! DEFINITION. The named operations over the state: registers, program counter, stack, timers,
random input, keypad, taking a fault, and the phases of a step before its instruction. -/

namespace Sys2Proof.Machine

/-- What a meaning answers. -/
abbrev Result := Host.Outcome State Fault Refusal

/-- `V[x]` (10_state.md R15). -/
def State.getReg (s : State) (x : RegIdx) : Byte := s.v[x]

/-- `V[x] <- b` (10_state.md R15). -/
def State.setReg (s : State) (x : RegIdx) (b : Byte) : State := { s with v := s.v.set x b }

/-- `I <- w` (10_state.md R17). -/
def State.setI (s : State) (w : Word) : State := { s with i := w }

/-- `PC <- w` (10_state.md R18). -/
def State.setPc (s : State) (w : Word) : State := { s with pc := w }

/-- `DT <- b` (10_state.md R22). -/
def State.setDt (s : State) (b : Byte) : State := { s with dt := b }

/-- `ST <- b` (10_state.md R23). -/
def State.setSt (s : State) (b : Byte) : State := { s with st := b }

/-- The pixel grid replaced (10_state.md R26). -/
def State.setGrid (s : State) (g : Grid) : State := { s with grid := g }

/-- `FC <- b` (10_state.md R27). -/
def State.setFc (s : State) (b : Bool) : State := { s with fc := b }

/-- `K[k] <- b`, the host's key events only (60_exceptions.md R120). -/
def State.setKey (s : State) (k : KeyIdx) (b : Bool) : State := { s with keys := s.keys.set k b }

/-- The PC advance of fetch, and `Skip()` (40_cycle.md R67, 43_skip.md R77). -/
def State.advancePc (s : State) : State := s.setPc (s.pc + 2)

/-- FX0A's rewind (46_timer_key.md R104). -/
def State.rewindPc (s : State) : State := s.setPc (s.pc - 2)

/-- `if c: Skip()` (43_skip.md R77). -/
def State.skipIf (s : State) (c : Bool) : State := if c then s.advancePc else s

/-- The push of 2NNN onto a stack that is not full (42_flow.md R75). -/
def State.pushPc (s : State) (h : s.sp.val < 16) : State :=
  { s with stack := s.stack.set s.sp.val s.pc h, sp := ⟨s.sp.val + 1, Nat.succ_lt_succ h⟩ }

/-- The pop of 00EE from a stack that is not empty; the slot keeps its value (42_flow.md R73,
10_state.md R21). -/
def State.popPc (s : State) (h : 0 < s.sp.val) : State :=
  { s with
    sp := ⟨s.sp.val - 1, Nat.lt_of_le_of_lt (Nat.sub_le _ _) s.sp.isLt⟩
    pc := s.stack[s.sp.val - 1]'(Nat.sub_one_lt_of_le h (Nat.le_of_lt_succ s.sp.isLt)) }

/-- HALTED: FAULT_CODE is not NONE (10_state.md R29). -/
def State.halted (s : State) : Bool := s.faultCode != .noFault

/-- FAULT_CODE, FAULT_PC and FAULT_WORD written together (10_state.md R29). -/
def State.setFault (s : State) (c : FaultCode) (pc w : Word) : State :=
  { s with faultCode := c, faultPc := pc, faultWord := w }

/-- Fault entry (60_exceptions.md R111), in a state whose PC is already advanced past the faulting
word (40_cycle.md R67): FAULT_CODE and FAULT_WORD are written, FAULT_PC is the fetch address
`pc0 = PC - 2` (mod 2^16), and nothing else changes. DEDUCED (log entry 1). -/
def State.takeFault (s : State) (c : FaultCode) (w : Word) : State := s.setFault c (s.pc - 2) w

/-- The next random byte and the state after it is taken: a byte the host has presented, else a free
value (60_exceptions.md R121; log entry 3). -/
def State.nextRandom (s : State) : Byte :=
  match s.rndIn with
  | b :: _ => b
  | [] => Config.randomByte s.draws

/-- The state after one random byte is taken (60_exceptions.md R121; log entry 3). -/
def State.takeRandom (s : State) : State :=
  match s.rndIn with
  | _ :: rest => { s with rndIn := rest }
  | [] => { s with draws := s.draws + 1 }

/-- `min { k | K[k] = 1 }`, if some key is down (46_timer_key.md R104). -/
def State.lowestKey (s : State) : Option KeyIdx := (List.finRange 16).find? (fun k => s.keys[k])

/-- One decrement, saturating at 0 (40_cycle.md R65). -/
def countDown (b : Byte) : Byte := if b = 0 then 0 else b - 1

/-- Does this step's tick reach zero? (40_cycle.md R65) -/
def State.tickDue (s : State) : Bool := s.tc - 1 == 0

/-- Phase (b), `TimerTick()` (40_cycle.md R65). -/
def State.timerTick (s : State) : State :=
  { s with
    tc := if s.tickDue then s.divider else s.tc - 1
    dt := if s.tickDue then countDown s.dt else s.dt
    st := if s.tickDue then countDown s.st else s.st }

/-- `Fetch(PC)` (20_memory.md R40). -/
def State.fetch (s : State) : Word :=
  joinBytes (s.readByte s.pc.toNat) (s.readByte (s.pc.toNat + 1))

/-- The step up to execution: phases (a) and (b), then the PC advance of (c) (40_cycle.md R62, R64,
R65, R67). Neither phase touches memory or PC, so the word to execute is the one at the old PC. -/
def State.beginStep (s : State) : State := ((s.setFc false).timerTick).advancePc

/-- The decode failure of a step, in the state after the PC advance (40_cycle.md R68,
60_exceptions.md R108). -/
def State.takeUnknown (s : State) (w : Word) : State := s.takeFault .unknownInstruction w

end Sys2Proof.Machine
end

