-- ==== Sys2Proof/Machine/Flags.lean ====
section
/-! DEFINITION. The flag computations and the one write of a result with its flag
(44_alu.md R84, R91-R95; 10_state.md R16). -/

namespace Sys2Proof.Machine

/-- The flag register's index, VF (10_state.md R16). -/
def flagReg : RegIdx := 15

/-- A flag as the byte VF holds, 1 or 0. -/
def flagByte (f : Bool) : Byte := if f then 1 else 0

/-- Unsigned overflow of an 8-bit sum, `a + b > 255` (44_alu.md R91). -/
def carryOut (a b : Byte) : Bool := decide (255 < a.toNat + b.toNat)

/-- No borrow in `a - b`, `a >= b` (44_alu.md R92, R94). -/
def noBorrow (a b : Byte) : Bool := decide (b.toNat ≤ a.toNat)

/-- The bit a right shift moves out, `a & 1` (44_alu.md R93). -/
def lowBit (a : Byte) : Bool := a.getLsbD 0

/-- The bit a left shift moves out, `(a >> 7) & 1` (44_alu.md R95). -/
def highBit (a : Byte) : Bool := a.getLsbD 7

/-- Write the result to `V[x]`, then the flag to VF, so that VF ends holding the flag when X = F
(44_alu.md R84). -/
def State.setResultFlag (s : State) (x : RegIdx) (r : Byte) (f : Bool) : State :=
  (s.setReg x r).setReg flagReg (flagByte f)

end Sys2Proof.Machine
end

