-- ==== Sys2Proof/Machine/Alu.lean ====
section
/-! DEFINITION. Register and arithmetic instructions: 6XNN, 7XNN, 8XY0-8XYE, CXNN
(44_alu.md R84-R96). Bytes wrap mod 256. -/

namespace Sys2Proof.Machine

/-- 6XNN, LD Vx, nn (44_alu.md R85). -/
def execLdImm (x : RegIdx) (nn : Byte) (s : State) : Result := .next (s.setReg x nn)

/-- 7XNN, ADD Vx, nn, no flag (44_alu.md R86). -/
def execAddImm (x : RegIdx) (nn : Byte) (s : State) : Result :=
  .next (s.setReg x (s.getReg x + nn))

/-- 8XY0, LD Vx, Vy (44_alu.md R87). -/
def execLdReg (x y : RegIdx) (s : State) : Result := .next (s.setReg x (s.getReg y))

/-- 8XY1, OR Vx, Vy (44_alu.md R88). -/
def execOrReg (x y : RegIdx) (s : State) : Result :=
  .next (s.setReg x (s.getReg x ||| s.getReg y))

/-- 8XY2, AND Vx, Vy (44_alu.md R89). -/
def execAndReg (x y : RegIdx) (s : State) : Result :=
  .next (s.setReg x (s.getReg x &&& s.getReg y))

/-- 8XY3, XOR Vx, Vy (44_alu.md R90). -/
def execXorReg (x y : RegIdx) (s : State) : Result :=
  .next (s.setReg x (s.getReg x ^^^ s.getReg y))

/-- 8XY4, ADD Vx, Vy with carry (44_alu.md R91). -/
def execAddReg (x y : RegIdx) (s : State) : Result :=
  .next (s.setResultFlag x (s.getReg x + s.getReg y) (carryOut (s.getReg x) (s.getReg y)))

/-- 8XY5, SUB Vx, Vy: X minus Y (44_alu.md R92). -/
def execSubReg (x y : RegIdx) (s : State) : Result :=
  .next (s.setResultFlag x (s.getReg x - s.getReg y) (noBorrow (s.getReg x) (s.getReg y)))

/-- 8XY6, SHR Vx; VY is not read (44_alu.md R93). -/
def execShr (x _y : RegIdx) (s : State) : Result :=
  .next (s.setResultFlag x (s.getReg x >>> 1) (lowBit (s.getReg x)))

/-- 8XY7, SUBN Vx, Vy: Y minus X (44_alu.md R94). -/
def execSubn (x y : RegIdx) (s : State) : Result :=
  .next (s.setResultFlag x (s.getReg y - s.getReg x) (noBorrow (s.getReg y) (s.getReg x)))

/-- 8XYE, SHL Vx; VY is not read (44_alu.md R95). -/
def execShl (x _y : RegIdx) (s : State) : Result :=
  .next (s.setResultFlag x (s.getReg x <<< 1) (highBit (s.getReg x)))

/-- CXNN, RND Vx, nn: one random byte is taken (44_alu.md R96, 60_exceptions.md R121). -/
def execRnd (x : RegIdx) (nn : Byte) (s : State) : Result :=
  .next (s.takeRandom.setReg x (s.nextRandom &&& nn))

end Sys2Proof.Machine
end

