-- ==== Sys2Proof/Machine/Display.lean ====
section
/-! DEFINITION. The display instructions 00E0 and DXYN (41_display.md R71, R72). -/

namespace Sys2Proof.Machine

/-- `G[y][x]`, for a cell of the grid; no cell is set outside it (10_state.md R26). -/
def Grid.pixel (g : Grid) (x y : Nat) : Bool :=
  if h : y < Config.gridH ∧ x < Config.gridW then (g[y]'h.1)[x]'h.2 else false

/-- `G[y][x] <- G[y][x] ^ 1`, for a cell of the grid (41_display.md R72). -/
def Grid.toggle (g : Grid) (x y : Nat) : Grid :=
  if h : y < Config.gridH ∧ x < Config.gridW then
    g.set y ((g[y]'h.1).set x (!((g[y]'h.1)[x]'h.2)) h.2) h.1
  else g

/-- The grid with every cell 0 (41_display.md R71). -/
def Grid.clear : Grid := Vector.replicate Config.gridH (Vector.replicate Config.gridW false)

/-- What a draw works on: the grid so far and whether a collision was seen. -/
structure Canvas where
  grid : Grid
  hit : Bool

/-- Column `c` of a sprite row, bits high-to-low: `b[7 - c]` (41_display.md R72). -/
def spriteBit (b : Byte) (c : Nat) : Bool := b.getLsbD (7 - c)

/-- One bit of a sprite row at a cell of the grid: a set bit notes a collision with a set pixel and
toggles the pixel (41_display.md R72). -/
def Canvas.drawBit (d : Canvas) (bit : Bool) (px py : Nat) : Canvas :=
  if bit then ⟨d.grid.toggle px py, d.hit || d.grid.pixel px py⟩ else d

/-- `k` columns of the sprite row `b` from column `c` on, clipped at the right edge
(41_display.md R72). -/
def Canvas.drawCols (b : Byte) (x0 py : Nat) : (k c : Nat) → Canvas → Canvas
  | 0, _, d => d
  | k + 1, c, d =>
    if Config.gridW ≤ x0 + c then d
    else Canvas.drawCols b x0 py k (c + 1) (d.drawBit (spriteBit b c) (x0 + c) py)

/-- `k` rows of the sprite whose row `r` is `row r`, from row `r` on, clipped at the bottom edge
(41_display.md R72). -/
def Canvas.drawRows (row : Nat → Byte) (x0 y0 : Nat) : (k r : Nat) → Canvas → Canvas
  | 0, _, d => d
  | k + 1, r, d =>
    if Config.gridH ≤ y0 + r then d
    else Canvas.drawRows row x0 y0 k (r + 1) (Canvas.drawCols (row r) x0 (y0 + r) 8 0 d)

/-- The canvas after the sprite of `n` rows at I is drawn from `(x0, y0)` (41_display.md R72). -/
def State.drawSprite (s : State) (x0 y0 n : Nat) : Canvas :=
  Canvas.drawRows (fun r => s.readByte (s.indexAddr r)) x0 y0 n 0 ⟨s.grid, false⟩

/-- 00E0, CLS (41_display.md R71). -/
def execCls (s : State) : Result := .next ((s.setGrid Grid.clear).setFc true)

/-- DXYN, DRW Vx, Vy, n (41_display.md R72): the start cell is read before VF is written. -/
def execDrw (x y : RegIdx) (n : BitVec 4) (s : State) : Result :=
  let d := s.drawSprite ((s.getReg x).toNat % Config.gridW) ((s.getReg y).toNat % Config.gridH)
    n.toNat
  .next (((s.setReg flagReg (flagByte d.hit)).setGrid d.grid).setFc true)

end Sys2Proof.Machine
end

