-- ==== Sys2Proof/Machine/Flow.lean ====
section
/-! DEFINITION. Control transfer: 00EE, 1NNN, 2NNN, BNNN (42_flow.md R73-R76). PC already holds the
fetch address + 2. -/

namespace Sys2Proof.Machine

/-- 00EE, RET (42_flow.md R73). -/
def execRet (s : State) : Result :=
  if h : 0 < s.sp.val then .next (s.popPc h)
  else .next (s.takeFault .stackUnderflow (encode .ret))

/-- 1NNN, JP nnn (42_flow.md R74). -/
def execJp (nnn : Addr12) (s : State) : Result := .next (s.setPc (zext16 nnn))

/-- 2NNN, CALL nnn (42_flow.md R75). -/
def execCall (nnn : Addr12) (s : State) : Result :=
  if h : s.sp.val < 16 then .next ((s.pushPc h).setPc (zext16 nnn))
  else .next (s.takeFault .stackOverflow (encode (.call nnn)))

/-- BNNN, JP V0, nnn (42_flow.md R76). -/
def execJpV0 (nnn : Addr12) (s : State) : Result :=
  .next (s.setPc (offsetTarget nnn (s.getReg 0)))

end Sys2Proof.Machine
end

