-- ==== Sys2Proof/Machine/Index.lean ====
section
/-! DEFINITION. Address register and memory instructions: ANNN, FX1E, FX29, FX33, FX55, FX65
(45_index_memory.md R97-R102). I is unchanged by the last three. -/

namespace Sys2Proof.Machine

/-- ANNN, LD I, nnn (45_index_memory.md R97). -/
def execLdI (nnn : Addr12) (s : State) : Result := .next (s.setI (zext16 nnn))

/-- FX1E, ADD I, Vx: mod 2^16, no flag (45_index_memory.md R98). -/
def execAddI (x : RegIdx) (s : State) : Result := .next (s.setI (s.i + widen (s.getReg x)))

/-- FX29, LD F, Vx (45_index_memory.md R99). -/
def execLdF (x : RegIdx) (s : State) : Result := .next (s.setI (fontAddr (s.getReg x)))

/-- FX33, LD B, Vx (45_index_memory.md R100). -/
def execLdB (x : RegIdx) (s : State) : Result :=
  .next (s.writeBytes (s.indexAddr 0)
    [hundredsDigit (s.getReg x), tensDigit (s.getReg x), unitsDigit (s.getReg x)])

/-- FX55, LD [I], Vx (45_index_memory.md R101). -/
def execStRegs (x : RegIdx) (s : State) : Result :=
  .next (s.writeBytes (s.indexAddr 0) (s.regPrefix x))

/-- The registers after `V[k] <- M[I + k]` for k = 0 .. x (45_index_memory.md R102). -/
def State.loadedRegs (s : State) (x : RegIdx) : Vector Byte 16 :=
  Vector.ofFn (fun k : RegIdx => if k ≤ x then s.readByte (s.indexAddr k.val) else s.getReg k)

/-- The whole register file replaced. -/
def State.setRegs (s : State) (v : Vector Byte 16) : State := { s with v := v }

/-- FX65, LD Vx, [I] (45_index_memory.md R102). -/
def execLdRegs (x : RegIdx) (s : State) : Result := .next (s.setRegs (s.loadedRegs x))

end Sys2Proof.Machine
end

