-- ==== Sys2Proof/Machine/Skip.lean ====
section
/-! DEFINITION. Conditional skips: 3XNN, 4XNN, 5XY0, 9XY0, EX9E, EXA1 (43_skip.md R77-R83). -/

namespace Sys2Proof.Machine

/-- 3XNN, SE Vx, nn (43_skip.md R78). -/
def execSeImm (x : RegIdx) (nn : Byte) (s : State) : Result := .next (s.skipIf (s.getReg x == nn))

/-- 4XNN, SNE Vx, nn (43_skip.md R79). -/
def execSneImm (x : RegIdx) (nn : Byte) (s : State) : Result := .next (s.skipIf (s.getReg x != nn))

/-- 5XY0, SE Vx, Vy (43_skip.md R80). -/
def execSeReg (x y : RegIdx) (s : State) : Result := .next (s.skipIf (s.getReg x == s.getReg y))

/-- 9XY0, SNE Vx, Vy (43_skip.md R81). -/
def execSneReg (x y : RegIdx) (s : State) : Result := .next (s.skipIf (s.getReg x != s.getReg y))

/-- EX9E, SKP Vx (43_skip.md R82, 60_exceptions.md R112). -/
def execSkp (x : RegIdx) (s : State) : Result :=
  match keyOperand (s.getReg x) with
  | some k => .next (s.skipIf s.keys[k])
  | none => .next (s.takeFault .keyIndex (encode (.skp x)))

/-- EXA1, SKNP Vx (43_skip.md R83, 60_exceptions.md R112). -/
def execSknp (x : RegIdx) (s : State) : Result :=
  match keyOperand (s.getReg x) with
  | some k => .next (s.skipIf (!s.keys[k]))
  | none => .next (s.takeFault .keyIndex (encode (.sknp x)))

end Sys2Proof.Machine
end

