-- ==== Sys2Proof/Machine/TimerKey.lean ====
section
/-! DEFINITION. Timer and key-wait instructions: FX07, FX0A, FX15, FX18 (46_timer_key.md
R103-R106). The tick of the same step has already run. -/

namespace Sys2Proof.Machine

/-- FX07, LD Vx, DT (46_timer_key.md R103). -/
def execLdVxDt (x : RegIdx) (s : State) : Result := .next (s.setReg x s.dt)

/-- FX0A, LD Vx, K: a level-triggered poll (46_timer_key.md R104). -/
def execLdVxK (x : RegIdx) (s : State) : Result :=
  match s.lowestKey with
  | some k => .next (s.setReg x (BitVec.ofNat 8 k.val))
  | none => .next s.rewindPc

/-- FX15, LD DT, Vx (46_timer_key.md R105). -/
def execLdDtVx (x : RegIdx) (s : State) : Result := .next (s.setDt (s.getReg x))

/-- FX18, LD ST, Vx (46_timer_key.md R106). -/
def execLdStVx (x : RegIdx) (s : State) : Result := .next (s.setSt (s.getReg x))

end Sys2Proof.Machine
end

