-- ==== Sys2Proof/Machine/Step.lean ====
section
/-! DEFINITION. One step of the engine (40_cycle.md R62-R70). -/

namespace Sys2Proof.Machine

/-- `Step(rnd)` of 40_cycle.md R62; the random byte stands in `rndIn`. A halted engine does nothing
(R63); otherwise the frame flag is cleared, the timers tick, and one instruction is fetched and
executed, or its word is taken as an unknown instruction (R68). The fault a step reports is the
FAULT_CODE of the state it answers. -/
def step (s : State) : Host.Outcome State Fault Refusal :=
  if s.halted then .next s
  else
    match decodeWord s.fetch with
    | .ok i => exec i s.beginStep
    | .error _ => .next (s.beginStep.takeUnknown s.fetch)

/-- The state with the opcode table's number `w` of `nbits` bits stored where the next step fetches,
big-endian (20_memory.md R40), and with no fault recorded, since a halted engine fetches nothing
(log entry 7). -/
def State.withFetchWord (s : State) (nbits w : Nat) : State :=
  ((s.writeByte s.pc.toNat (highByte (tableWord nbits w))).writeByte (s.pc.toNat + 1)
    (lowByte (tableWord nbits w))).setFault .noFault 0 0

end Sys2Proof.Machine
end

