-- ==== Sys2Proof/Machine/HostPort.lean ====
section
/-! DEFINITION. The host's eight transactions on the engine (60_exceptions.md R118-R125,
70_reset_and_hazards.md R127). Each is atomic and happens between steps (40_cycle.md R70). -/

namespace Sys2Proof.Machine

/-- The 3-bit number of FAULT_CODE (60_exceptions.md R107). -/
def FaultCode.code : FaultCode → BitVec 3
  | .noFault => 0
  | .unknownInstruction => 1
  | .stackOverflow => 2
  | .stackUnderflow => 3
  | .keyIndex => 4

/-- The eight operations of the interface (60_exceptions.md R123). -/
inductive Txn where
  /-- `Reset()` (70_reset_and_hazards.md R127). -/
  | reset
  /-- `Load(bytes)` (R124). -/
  | load (bytes : List Byte)
  /-- `Step()` with its random byte (R121, 40_cycle.md R62). -/
  | step (rnd : Byte)
  /-- `KeyDown(k)`; the 4-bit port admits no other key (R120). -/
  | keyDown (k : KeyIdx)
  /-- `KeyUp(k)` (R120). -/
  | keyUp (k : KeyIdx)
  /-- `ReadFrame()` (R122). -/
  | readFrame
  /-- `ReadSound()` (R119). -/
  | readSound
  /-- `ReadFault()` (10_state.md R29). -/
  | readFault
  deriving DecidableEq, Repr

/-- What the host gets back (60_exceptions.md R123). -/
inductive Reply where
  /-- No result: Reset, KeyDown, KeyUp. -/
  | done
  /-- A load that was taken. -/
  | loaded
  /-- LoadCapacityError (R125). -/
  | loadCapacityError
  /-- A step's outcome: NONE or the fault code (40_cycle.md R62, R63). -/
  | stepped (code : BitVec 3)
  /-- A step without a meaning; no instruction of this model gives it. -/
  | noMeaning
  /-- The grid, row-major, and FC (R122). -/
  | frame (pixels : List Bool) (fc : Bool)
  /-- ST (R119). -/
  | sound (st : Byte)
  /-- FAULT_CODE, FAULT_PC, FAULT_WORD (10_state.md R29). -/
  | faultRecord (code : BitVec 3) (pc word : Word)
  deriving DecidableEq, Repr

/-- `Reset()`: every piece of engine state to its reset value (70_reset_and_hazards.md R127). The
parameter and the host's random source are no engine state and stand (log entry 5). -/
def State.hostReset (s : State) : State :=
  { State.resetWith s.divider with rndIn := s.rndIn, draws := s.draws }

/-- `Load(bytes)`: all or nothing (60_exceptions.md R124, R125). -/
def State.hostLoad (bytes : List Byte) (s : State) : State × Reply :=
  if Config.progMax < bytes.length then (s, .loadCapacityError)
  else (s.writeBytes Config.progBase bytes, .loaded)

/-- The bytes presented at the random input. -/
def State.setRndIn (s : State) (bs : List Byte) : State := { s with rndIn := bs }

/-- `Step()` with the random byte `rnd`, which a CXNN takes and any other instruction leaves untaken
(60_exceptions.md R121, 40_cycle.md R70; log entry 5). -/
def State.hostStep (rnd : Byte) (s : State) : State × Reply :=
  match Sys2Proof.Machine.step (s.setRndIn [rnd]) with
  | .next t => (t.setRndIn s.rndIn, .stepped t.faultCode.code)
  | .refused _ => (s, .noMeaning)

/-- The grid as the host reads it: row-major, cell (x, y) is element `y * GRID_W + x`
(10_state.md R26, 60_exceptions.md R122). -/
def State.frame (s : State) : List Bool := s.grid.toList.flatMap (fun row => row.toList)

/-- The tone sounds iff ST is not 0 (60_exceptions.md R119, decision D21). -/
def State.toneOn (s : State) : Bool := s.st != 0

/-- One transaction: the state after it and what the host gets back (60_exceptions.md R123). -/
def Txn.apply (s : State) : Txn → State × Reply
  | .reset => (s.hostReset, .done)
  | .load bytes => s.hostLoad bytes
  | .step rnd => s.hostStep rnd
  | .keyDown k => (s.setKey k true, .done)
  | .keyUp k => (s.setKey k false, .done)
  | .readFrame => (s, .frame s.frame s.fc)
  | .readSound => (s, .sound s.st)
  | .readFault => (s, .faultRecord s.faultCode.code s.faultPc s.faultWord)

end Sys2Proof.Machine
end

