-- ==== Sys2Proof/Safety.lean ====
section
/-! DEFINITION. The terms claims use: the parts of the state, what it means that a part is
unchanged, and the invariant of the machine. -/

namespace Sys2Proof.Machine

/-- A part of the state that a claim can name: each register, slot, byte and cell on its own. -/
inductive Part where
  | reg (x : RegIdx)
  | addressReg
  | pc
  | sp
  | slot (j : Fin 16)
  | dt
  | st
  | tc
  | byte (a : Nat)
  | pixel (x y : Nat)
  | frameFlag
  | key (k : KeyIdx)
  | faultCode
  | faultPc
  | faultWord
  | divider
  | rndIn
  | draws
  deriving DecidableEq, Repr

/-- The two states agree on the part. A byte of memory is compared through the read of one byte. -/
def Part.Agrees (s t : State) : Part → Prop
  | .reg x => t.v[x] = s.v[x]
  | .addressReg => t.i = s.i
  | .pc => t.pc = s.pc
  | .sp => t.sp = s.sp
  | .slot j => t.stack[j] = s.stack[j]
  | .dt => t.dt = s.dt
  | .st => t.st = s.st
  | .tc => t.tc = s.tc
  | .byte a => t.readByte a = s.readByte a
  | .pixel x y => t.grid.pixel x y = s.grid.pixel x y
  | .frameFlag => t.fc = s.fc
  | .key k => t.keys[k] = s.keys[k]
  | .faultCode => t.faultCode = s.faultCode
  | .faultPc => t.faultPc = s.faultPc
  | .faultWord => t.faultWord = s.faultWord
  | .divider => t.divider = s.divider
  | .rndIn => t.rndIn = s.rndIn
  | .draws => t.draws = s.draws

/-- From `s` to `t` nothing changed but, at most, the parts `touched`. -/
def OnlyTouches (touched : Part → Prop) (s t : State) : Prop :=
  ∀ p : Part, ¬ touched p → p.Agrees s t

/-- The three registers that fault entry writes (60_exceptions.md R111). -/
def FaultPart (p : Part) : Prop := p = .faultCode ∨ p = .faultPc ∨ p = .faultWord

/-- The bytes at the computed addresses `a`, .., `a + n - 1`, each reduced mod 4096
(20_memory.md R39). -/
def BytesFrom (a n : Nat) (p : Part) : Prop :=
  ∃ b k, p = .byte b ∧ k < n ∧ b % 4096 = (a + k) % 4096

/-- The writes column of the access table (10_state.md R33), with what a fault entry writes for the
four instructions that can fault (60_exceptions.md R107) and the random input of CXNN (R121). -/
def MayWrite (i : Instr) (s : State) (p : Part) : Prop :=
  match i with
  | .cls => (∃ x y, p = .pixel x y) ∨ p = .frameFlag
  | .ret => p = .pc ∨ p = .sp ∨ FaultPart p
  | .jp _ => p = .pc
  | .call _ => (∃ j : Fin 16, j.val = s.sp.val ∧ p = .slot j) ∨ p = .sp ∨ p = .pc ∨ FaultPart p
  | .seImm _ _ => p = .pc
  | .sneImm _ _ => p = .pc
  | .seReg _ _ => p = .pc
  | .ldImm x _ => p = .reg x
  | .addImm x _ => p = .reg x
  | .ldReg x _ => p = .reg x
  | .orReg x _ => p = .reg x
  | .andReg x _ => p = .reg x
  | .xorReg x _ => p = .reg x
  | .addReg x _ => p = .reg x ∨ p = .reg 15
  | .subReg x _ => p = .reg x ∨ p = .reg 15
  | .shr x _ => p = .reg x ∨ p = .reg 15
  | .subn x _ => p = .reg x ∨ p = .reg 15
  | .shl x _ => p = .reg x ∨ p = .reg 15
  | .sneReg _ _ => p = .pc
  | .ldI _ => p = .addressReg
  | .jpV0 _ => p = .pc
  | .rnd x _ => p = .reg x ∨ p = .rndIn ∨ p = .draws
  | .drw _ _ _ => p = .reg 15 ∨ (∃ x y, p = .pixel x y) ∨ p = .frameFlag
  | .skp _ => p = .pc ∨ FaultPart p
  | .sknp _ => p = .pc ∨ FaultPart p
  | .ldVxDt x => p = .reg x
  | .ldVxK x => p = .reg x ∨ p = .pc
  | .ldDtVx _ => p = .dt
  | .ldStVx _ => p = .st
  | .addI _ => p = .addressReg
  | .ldF _ => p = .addressReg
  | .ldB _ => BytesFrom s.i.toNat 3 p
  | .stRegs x => BytesFrom s.i.toNat (x.val + 1) p
  | .ldRegs x => ∃ k : RegIdx, k ≤ x ∧ p = .reg k

/-- The reads column of the access table for the general registers (10_state.md R33, R51). -/
def ReadsRegister (i : Instr) (r : RegIdx) : Prop :=
  match i with
  | .cls => False
  | .ret => False
  | .jp _ => False
  | .call _ => False
  | .seImm x _ => r = x
  | .sneImm x _ => r = x
  | .seReg x y => r = x ∨ r = y
  | .ldImm _ _ => False
  | .addImm x _ => r = x
  | .ldReg _ y => r = y
  | .orReg x y => r = x ∨ r = y
  | .andReg x y => r = x ∨ r = y
  | .xorReg x y => r = x ∨ r = y
  | .addReg x y => r = x ∨ r = y
  | .subReg x y => r = x ∨ r = y
  | .shr x _ => r = x
  | .subn x y => r = x ∨ r = y
  | .shl x _ => r = x
  | .sneReg x y => r = x ∨ r = y
  | .ldI _ => False
  | .jpV0 _ => r = 0
  | .rnd _ _ => False
  | .drw x y _ => r = x ∨ r = y
  | .skp x => r = x
  | .sknp x => r = x
  | .ldVxDt _ => False
  | .ldVxK _ => False
  | .ldDtVx x => r = x
  | .ldStVx x => r = x
  | .addI x => r = x
  | .ldF x => r = x
  | .ldB x => r = x
  | .stRegs x => r ≤ x
  | .ldRegs _ => False

/-- The sprite bit that a draw of `n` rows from `(x0, y0)` has for the cell `(x, y)`: row `y - y0`
of the sprite at I, bit `7 - (x - x0)`, clipped to the grid (41_display.md R72). -/
def State.spriteAt (s : State) (x0 y0 n x y : Nat) : Bool :=
  decide (x < 64 ∧ y < 32 ∧ x0 ≤ x ∧ x < x0 + 8 ∧ y0 ≤ y ∧ y < y0 + n) &&
    (s.readByte (s.i.toNat + (y - y0))).getLsbD (7 - (x - x0))

/-- `s` runs `n` steps to `t`, none of them from a halted state and none of them FX15 or FX18
(40_cycle.md R65). -/
def RunsWithoutTimerWrites : Nat → State → State → Prop
  | 0, s, t => t = s
  | n + 1, s, t =>
    s.faultCode = .noFault ∧
    (∀ x, decodeWord s.fetch ≠ .ok (.ldDtVx x) ∧ decodeWord s.fetch ≠ .ok (.ldStVx x)) ∧
    ∃ u, step s = .next u ∧ RunsWithoutTimerWrites n u t

/-- The invariant of the machine. -/
structure State.Inv (s : State) : Prop where
  /-- The memory is in its canonical form. -/
  memCanonical : s.mem.wf
  /-- TC is in [1, TIMER_DIVIDER] between steps (10_state.md R24). -/
  tcPositive : 1 ≤ s.tc
  tcBounded : s.tc ≤ s.divider
  /-- While the engine runs, FAULT_PC and FAULT_WORD hold their reset value: only fault entry
  writes them and only reset clears it (10_state.md R29, 60_exceptions.md R114). -/
  runningRecord : s.faultCode = .noFault → s.faultPc = 0 ∧ s.faultWord = 0
  /-- A faulting step leaves FC = 0 and PC just past the faulting word (40_cycle.md R64,
  60_exceptions.md R111). -/
  haltedRecord : s.faultCode ≠ .noFault → s.fc = false ∧ s.pc = s.faultPc + 2
  /-- An unknown instruction is an illegal word (60_exceptions.md R108). -/
  unknownRecord : s.faultCode = .unknownInstruction → wordLegal s.faultWord = false
  /-- A stack overflow is a 2NNN with SP = 16 (60_exceptions.md R109). -/
  overflowRecord : s.faultCode = .stackOverflow →
    s.sp = 16 ∧ ∃ nnn, decodeWord s.faultWord = .ok (.call nnn)
  /-- A stack underflow is a 00EE with SP = 0 (60_exceptions.md R110). -/
  underflowRecord : s.faultCode = .stackUnderflow → s.sp = 0 ∧ s.faultWord = 0x00EE
  /-- A key index fault is an EX9E or EXA1 with VX > 15 (60_exceptions.md R112). -/
  keyRecord : s.faultCode = .keyIndex →
    ∃ x : RegIdx, 15 < s.v[x].toNat ∧
      (decodeWord s.faultWord = .ok (.skp x) ∨ decodeWord s.faultWord = .ok (.sknp x))

end Sys2Proof.Machine
end

