-- ==== Sys2Proof/Certificates/Slice0/Obligations.lean ====
section
/-! DEFINITION. The statements for the provers, from the numbered rules of spec/. Each one's
`exec` acts in a state whose PC is already past the instruction (40_cycle.md R67). -/

open Sys2Proof Sys2Proof.Machine

/-! ## Encoding -/

/-- Decoding an encoded instruction gives it back, alone and in front of more bytes
(30_encoding.md R49, R53; 20_memory.md R40). -/
def Obligations.DecodeOfEncodeIsTheInstruction : Prop :=
  ∀ (i : Instr) (rest : List Byte),
    decodeWord (encode i) = .ok i ∧ decodeBytes (encodeBytes i ++ rest) = .ok (i, rest)

/-- Encoding a decoded word gives the word back: no bit of a legal word is dropped
(30_encoding.md R48, R49). -/
def Obligations.EncodeOfDecodeIsTheWord : Prop :=
  ∀ (w : Word) (i : Instr), decodeWord w = .ok i → encode i = w

/-- The opcode map: a word matches a row's mask and match iff the two-stage decoder reads it as that
row's instruction, no word matches two rows, and the decoder accepts no other word
(30_encoding.md R53). -/
def Obligations.DecoderAgreesWithOpcodeMap : Prop :=
  ∀ w : Word,
    (∀ r ∈ opcodeMap, r.covers w = true ↔ ∃ i, decodeWord w = .ok i ∧ i.pattern = r.pattern) ∧
    (∀ r ∈ opcodeMap, ∀ r' ∈ opcodeMap, r.covers w = true → r'.covers w = true → r = r') ∧
    ((∃ i, decodeWord w = .ok i) ↔ wordLegal w = true)

/-- The words the decoder rejects, family by family (30_encoding.md R54-R59). -/
def Obligations.RejectedWordsByFamily : Prop :=
  ∀ w : Word, (∃ e, decodeWord w = .error e) ↔
    (w.toNat / 4096 = 0x0 ∧ w.toNat ≠ 0x00E0 ∧ w.toNat ≠ 0x00EE) ∨
    (w.toNat / 4096 = 0x5 ∧ w.toNat % 16 ≠ 0) ∨
    (w.toNat / 4096 = 0x9 ∧ w.toNat % 16 ≠ 0) ∨
    (w.toNat / 4096 = 0x8 ∧ w.toNat % 16 ∈ [0x8, 0x9, 0xA, 0xB, 0xC, 0xD, 0xF]) ∨
    (w.toNat / 4096 = 0xE ∧ w.toNat % 256 ∉ [0x9E, 0xA1]) ∨
    (w.toNat / 4096 = 0xF ∧
      w.toNat % 256 ∉ [0x07, 0x0A, 0x15, 0x18, 0x1E, 0x29, 0x33, 0x55, 0x65])

/-- A word of each of the 16 families, every one a word of the vectors of 95_test_vectors.md L1 and L2,
decodes to the instruction it stands for, and the illegal word of vector L1-6 is rejected
(30_encoding.md R53, R55). -/
def Obligations.VectorWordsDecode : Prop :=
  decodeWord 0x00E0 = .ok .cls ∧ decodeWord 0x1228 = .ok (.jp 0x228) ∧
  decodeWord 0x2400 = .ok (.call 0x400) ∧ decodeWord 0x3342 = .ok (.seImm 3 0x42) ∧
  decodeWord 0x4342 = .ok (.sneImm 3 0x42) ∧ decodeWord 0x5120 = .ok (.seReg 1 2) ∧
  decodeWord 0x6AFF = .ok (.ldImm 10 0xFF) ∧ decodeWord 0x7220 = .ok (.addImm 2 0x20) ∧
  decodeWord 0x8014 = .ok (.addReg 0 1) ∧ decodeWord 0x9120 = .ok (.sneReg 1 2) ∧
  decodeWord 0xA300 = .ok (.ldI 0x300) ∧ decodeWord 0xBFFF = .ok (.jpV0 0xFFF) ∧
  decodeWord 0xC40F = .ok (.rnd 4 0x0F) ∧ decodeWord 0xD123 = .ok (.drw 1 2 3) ∧
  decodeWord 0xE59E = .ok (.skp 5) ∧ decodeWord 0xF50A = .ok (.ldVxK 5) ∧
  decodeWord 0x5011 = .error (.family5 1)

/-! ## The step -/

/-- When the bytes at PC decode to an instruction, a running engine's step is that instruction's
`exec` after the frame flag is cleared, the timers have ticked and PC has advanced by 2
(40_cycle.md R62, R64-R67, R69; 20_memory.md R40). -/
def Obligations.StepRunsTheDecodedInstruction : Prop :=
  ∀ (s : State) (i : Instr), s.faultCode = .noFault →
    decodeBytes [s.readByte s.pc.toNat, s.readByte (s.pc.toNat + 1)] = .ok (i, []) →
    step s = exec i
      { s with
        fc := false
        tc := if s.tc - 1 = 0 then s.divider else s.tc - 1
        dt := if s.tc - 1 = 0 ∧ s.dt ≠ 0 then s.dt - 1 else s.dt
        st := if s.tc - 1 = 0 ∧ s.st ≠ 0 then s.st - 1 else s.st
        pc := s.pc + 2 }

/-- Every step of every state answers a next state: no access, no PC and no instruction stops the
machine (20_memory.md R39, R42; 40_cycle.md R63, R68). -/
def Obligations.EveryStepAnswersANextState : Prop :=
  ∀ s : State, ∃ t, step s = .next t

/-- A halted engine's step changes nothing and reports the recorded fault again, and no transaction
but Reset clears the fault (40_cycle.md R63). -/
def Obligations.HaltedEngineStaysHalted : Prop :=
  ∀ s : State, s.faultCode ≠ .noFault →
    step s = .next s ∧
    (∀ rnd, Txn.apply s (.step rnd) = (s, .stepped s.faultCode.code)) ∧
    (∀ q : Txn, q ≠ .reset → (Txn.apply s q).1.faultCode = s.faultCode) ∧
    (Txn.apply s .reset).1.faultCode = .noFault

/-- A word that matches no row of the opcode map takes UnknownInstructionError: FAULT_PC is the
fetch address, FAULT_WORD the word, and beyond the fault record only the step's phases before
execution have happened (40_cycle.md R68, 60_exceptions.md R108). -/
def Obligations.IllegalWordTakesUnknownInstruction : Prop :=
  ∀ s : State, s.faultCode = .noFault → wordLegal s.fetch = false →
    ∃ t, step s = .next t ∧
      t.faultCode = .unknownInstruction ∧ t.faultCode.code = 1 ∧
      t.faultPc = s.pc ∧ t.faultWord = s.fetch ∧ t.pc = s.pc + 2 ∧ t.fc = false ∧
      t.tc = s.timerTick.tc ∧ t.dt = s.timerTick.dt ∧ t.st = s.timerTick.st ∧
      OnlyTouches (fun p => p = .frameFlag ∨ p = .tc ∨ p = .dt ∨ p = .st ∨ p = .pc ∨ FaultPart p)
        s t

/-- A step that raises a fault records the fetch address and the fetched word, leaves PC past that
word and the phases before execution done, and writes nothing else: the fault is precise
(60_exceptions.md R111, 40_cycle.md R69). -/
def Obligations.FaultEntryIsPrecise : Prop :=
  ∀ s t : State, s.faultCode = .noFault → step s = .next t → t.faultCode ≠ .noFault →
    t.faultPc = s.pc ∧ t.faultWord = s.fetch ∧ t.halted = true ∧
    t.pc = s.pc + 2 ∧ t.fc = false ∧
    t.tc = s.timerTick.tc ∧ t.dt = s.timerTick.dt ∧ t.st = s.timerTick.st ∧
    OnlyTouches (fun p => p = .frameFlag ∨ p = .tc ∨ p = .dt ∨ p = .st ∨ p = .pc ∨ FaultPart p) s t

/-- A step faults exactly under the four conditions of the fault table, each with its code
(60_exceptions.md R107). -/
def Obligations.FaultsExactlyAsTheTableSays : Prop :=
  ∀ s t : State, s.faultCode = .noFault → step s = .next t →
    (t.faultCode.code = 1 ↔ wordLegal s.fetch = false) ∧
    (t.faultCode.code = 2 ↔ s.sp = 16 ∧ ∃ nnn, decodeWord s.fetch = .ok (.call nnn)) ∧
    (t.faultCode.code = 3 ↔ s.sp = 0 ∧ decodeWord s.fetch = .ok .ret) ∧
    (t.faultCode.code = 4 ↔ ∃ x : RegIdx, 15 < s.v[x].toNat ∧
      (decodeWord s.fetch = .ok (.skp x) ∨ decodeWord s.fetch = .ok (.sknp x)))

/-- FC is 1 at the end of a step iff the step executed 00E0 or DXYN, so a step that faults leaves
FC = 0 (40_cycle.md R64). -/
def Obligations.FrameFlagIffClearOrDraw : Prop :=
  ∀ s t : State, s.faultCode = .noFault → step s = .next t →
    (t.fc = true ↔ decodeWord s.fetch = .ok .cls ∨
      ∃ x y n, decodeWord s.fetch = .ok (.drw x y n)) ∧
    (t.faultCode ≠ .noFault → t.fc = false)

/-- From a state whose divider counter is full, `n` steps without a timer write give each timer
`n / TIMER_DIVIDER` decrements, saturating at zero, whatever else they execute
(40_cycle.md R65). -/
def Obligations.TimersDecrementOncePerDivider : Prop :=
  ∀ (n : Nat) (s t : State), 1 ≤ s.divider → s.tc = s.divider → RunsWithoutTimerWrites n s t →
    t.dt.toNat = s.dt.toNat - n / s.divider ∧ t.st.toNat = s.st.toNat - n / s.divider ∧
    t.tc = s.divider - n % s.divider ∧ t.divider = s.divider

/-- No instruction writes a part of the state that the access table does not list for it
(10_state.md R33), but for the fault record of the four instructions that can fault
(60_exceptions.md R107). That a CXNN writes `rndIn` or `draws` is the model's choice (log entry 3). -/
def Obligations.InstructionsWriteOnlyWhatTheTableLists : Prop :=
  ∀ (i : Instr) (s t : State), exec i s = .next t → OnlyTouches (MayWrite i s) s t

/-- An instruction reads no general register but those the access table lists for it, VF included:
in a state where another register holds something else, it does the same, except that this register
itself may differ after it (10_state.md R16, R33). -/
def Obligations.UnreadRegistersDoNotMatter : Prop :=
  ∀ (i : Instr) (s t : State) (r : RegIdx) (b : Byte), ¬ ReadsRegister i r → exec i s = .next t →
    ∃ u, exec i (s.setReg r b) = .next u ∧ OnlyTouches (fun p => p = .reg r) t u

/-- The keypad is read by EX9E, EXA1 and FX0A only: every other instruction does the same whatever
keys are down (10_state.md R28). -/
def Obligations.OnlyThreeInstructionsReadKeys : Prop :=
  ∀ (i : Instr) (s t : State) (k : KeyIdx) (b : Bool),
    (∀ x, i ≠ .skp x ∧ i ≠ .sknp x ∧ i ≠ .ldVxK x) → exec i s = .next t →
    exec i (s.setKey k b) = .next (t.setKey k b)

/-- No instruction reads ST or the divider counter: with other values of the two, every instruction
does the same, except that the two themselves may differ (10_state.md R23, R24). -/
def Obligations.NoInstructionReadsSoundTimerOrDivider : Prop :=
  ∀ (i : Instr) (s t : State) (b : Byte) (c : Nat), exec i s = .next t →
    ∃ u, exec i { s with st := b, tc := c } = .next u ∧
      OnlyTouches (fun p => p = .st ∨ p = .tc) t u

/-- Across a whole step the keys never change; a byte of memory changes only by FX33 or FX55, a pixel
only by 00E0 or DXYN, a stack slot only by 2NNN, and I only by ANNN, FX1E or FX29
(10_state.md R17, R21, R26, R28; 20_memory.md R43). -/
def Obligations.WhoMayChangeKeysMemoryGridStackAndI : Prop :=
  ∀ s t : State, step s = .next t →
    t.keys = s.keys ∧
    (∀ a, t.readByte a ≠ s.readByte a →
      ∃ x, decodeWord s.fetch = .ok (.ldB x) ∨ decodeWord s.fetch = .ok (.stRegs x)) ∧
    (t.grid ≠ s.grid → decodeWord s.fetch = .ok .cls ∨
      ∃ x y n, decodeWord s.fetch = .ok (.drw x y n)) ∧
    (t.stack ≠ s.stack → ∃ nnn, decodeWord s.fetch = .ok (.call nnn)) ∧
    (t.i ≠ s.i → (∃ nnn, decodeWord s.fetch = .ok (.ldI nnn)) ∨
      ∃ x, decodeWord s.fetch = .ok (.addI x) ∨ decodeWord s.fetch = .ok (.ldF x))

/-! ## Reset, the invariant, the host's transactions -/

/-- Every piece of state has its reset value after reset, at `State.reset` and after the Reset
transaction in any state (10_state.md R32, 70_reset_and_hazards.md R127). The Reset transaction has no
result, and the TIMER_DIVIDER that TC becomes is the one from before it: that is a parameter, no
engine state (10_state.md R31). -/
def Obligations.ResetValues : Prop :=
  ∀ s t : State, t = State.reset ∨ t = (Txn.apply s .reset).1 →
    (∀ x : RegIdx, t.v[x] = 0) ∧ t.i = 0 ∧ t.pc = 0x200 ∧ t.sp = 0 ∧
    (∀ j : Fin 16, t.stack[j] = 0) ∧ t.dt = 0 ∧ t.st = 0 ∧ t.tc = t.divider ∧
    (∀ a < 4096, a < 0x050 ∨ 0x0A0 ≤ a → t.readByte a = 0) ∧
    (∀ d < 16, ∀ r < 5, t.readByte (0x050 + 5 * d + r) = Config.font.getD (5 * d + r) 0) ∧
    (∀ x y, t.grid.pixel x y = false) ∧ t.fc = false ∧ (∀ k : KeyIdx, t.keys[k] = false) ∧
    t.faultCode.code = 0 ∧ t.faultPc = 0 ∧ t.faultWord = 0 ∧ t.halted = false ∧
    (Txn.apply s .reset).2 = .done ∧ (Txn.apply s .reset).1.divider = s.divider

/-- A step right after reset, before any load, executes the word 0x0000 and takes
UnknownInstructionError (70_reset_and_hazards.md R129). -/
def Obligations.StepBeforeLoadIsUnknownInstruction : Prop :=
  State.reset.fetch = 0x0000 ∧
    ∃ t, step State.reset = .next t ∧ t.faultCode = .unknownInstruction ∧
      t.faultPc = 0x200 ∧ t.faultWord = 0x0000 ∧ t.pc = 0x202

/-- The invariant holds at reset. That TC is at least 1 there is the model's choice of a
`Config.timerDivider` of at least 1 (log entry 2; 00_scope.md R7). -/
def Obligations.InvariantHoldsAtReset : Prop := State.reset.Inv

/-- Every step keeps the invariant: canonical memory, TC in [1, TIMER_DIVIDER], and a fault record
that tells the truth about the fault it records (10_state.md R24, R29; 60_exceptions.md R111). -/
def Obligations.EveryStepKeepsTheInvariant : Prop :=
  ∀ s t : State, s.Inv → step s = .next t → t.Inv

/-- Every transaction of the host keeps the invariant (60_exceptions.md R123). -/
def Obligations.EveryTransactionKeepsTheInvariant : Prop :=
  ∀ (s : State) (q : Txn), s.Inv → (Txn.apply s q).1.Inv

/-- A load of at most 3584 bytes copies them to 0x200 onward and changes nothing else; a longer one
is a capacity error and changes nothing (60_exceptions.md R124, R125). -/
def Obligations.LoadCopiesOrRefusesAll : Prop :=
  ∀ (s : State) (bytes : List Byte), s.mem.wf →
    (bytes.length ≤ 3584 → ∃ t, Txn.apply s (.load bytes) = (t, .loaded) ∧
      (∀ (j : Nat) (h : j < bytes.length), t.readByte (0x200 + j) = bytes[j]) ∧
      OnlyTouches (BytesFrom 0x200 bytes.length) s t) ∧
    (3584 < bytes.length → Txn.apply s (.load bytes) = (s, .loadCapacityError))

/-- A key event sets its key and changes nothing else (60_exceptions.md R120). -/
def Obligations.KeyEventsSetOneKey : Prop :=
  ∀ (s : State) (k : KeyIdx),
    (Txn.apply s (.keyDown k)).1.keys[k] = true ∧ (Txn.apply s (.keyUp k)).1.keys[k] = false ∧
    OnlyTouches (fun p => p = .key k) s (Txn.apply s (.keyDown k)).1 ∧
    OnlyTouches (fun p => p = .key k) s (Txn.apply s (.keyUp k)).1

/-- The host's reads change nothing. The frame is read row-major, cell (x, y) as element
`y * 64 + x`, with FC; the sound is ST; the fault record is FAULT_CODE, FAULT_PC and FAULT_WORD
(60_exceptions.md R119, R122; 10_state.md R26, R29). -/
def Obligations.HostReadsSeeTheStateAndChangeNothing : Prop :=
  ∀ s : State,
    (∃ pixels, Txn.apply s .readFrame = (s, .frame pixels s.fc) ∧ pixels.length = 2048 ∧
      ∀ x y, x < 64 → y < 32 → pixels[y * 64 + x]? = some (s.grid.pixel x y)) ∧
    Txn.apply s .readSound = (s, .sound s.st) ∧
    Txn.apply s .readFault = (s, .faultRecord s.faultCode.code s.faultPc s.faultWord)

/-- A CXNN takes exactly one random byte and no other instruction takes any (60_exceptions.md R121).
Which byte is the model's choice (log entry 3): the first of `rndIn`, which loses it, or, with none
presented, the free value that `draws` numbers, which advances. -/
def Obligations.OnlyRndTakesOneRandomByte : Prop :=
  ∀ s t : State, step s = .next t →
    (s.faultCode = .noFault → ∀ x nn, decodeWord s.fetch = .ok (.rnd x nn) →
      (∀ b rest, s.rndIn = b :: rest → t.rndIn = rest ∧ t.draws = s.draws) ∧
      (s.rndIn = [] → t.rndIn = [] ∧ t.draws = s.draws + 1)) ∧
    ((∀ x nn, decodeWord s.fetch ≠ .ok (.rnd x nn)) →
      t.rndIn = s.rndIn ∧ t.draws = s.draws)

/-- The Step transaction is one step with its random byte presented, in every state and for every
word, and it replies with NONE or the fault code that the step leaves (40_cycle.md R62;
60_exceptions.md R111, R123); in a running engine a CXNN takes that byte (R121; 44_alu.md R96). That
`rndIn` is put back and `draws` stands is the model's choice (log entries 3 and 5). -/
def Obligations.StepTransactionFeedsRnd : Prop :=
  ∀ (s : State) (b : Byte),
    (∃ t, step { s with rndIn := [b] } = .next t ∧ t.draws = s.draws ∧
      Txn.apply s (.step b) = ({ t with rndIn := s.rndIn }, .stepped t.faultCode.code)) ∧
    (∀ (x : RegIdx) (nn : Byte), s.faultCode = .noFault → decodeWord s.fetch = .ok (.rnd x nn) →
      ∃ t, Txn.apply s (.step b) = (t, .stepped 0) ∧ t.v[x] = b &&& nn ∧
        t.rndIn = s.rndIn ∧ t.draws = s.draws)

/-! ## Memory -/

/-- Two memories in canonical form that read alike at every address are the same data. The canonical
list is the model's choice of a form (log entry 4) for the 4096 bytes of 10_state.md R25. -/
def Obligations.CanonicalMemoriesThatReadAlikeAreEqual : Prop :=
  ∀ m m' : Memory, m.wf → m'.wf → (∀ a < 4096, m.lookup a = m'.lookup a) → m = m'

/-- Memory sees I and PC only mod 4096: the instructions that address through I do the same with I
reduced, and so does fetch with PC reduced (20_memory.md R39). -/
def Obligations.AddressesAreReducedModulo4096 : Prop :=
  ∀ (s t : State) (i : Instr) (x y : RegIdx) (n : BitVec 4),
    i = .drw x y n ∨ i = .ldB x ∨ i = .stRegs x ∨ i = .ldRegs x →
    exec i s = .next t →
    exec i { s with i := s.i &&& 0xFFF } = .next { t with i := s.i &&& 0xFFF } ∧
    ({ s with pc := s.pc &&& 0xFFF } : State).fetch = s.fetch

/-- A byte that FX33 or FX55 stores at either address of the next instruction is what the next step
fetches there, and a byte of it that they do not reach is fetched as before (20_memory.md R46,
70_reset_and_hazards.md R133). The `n` stored bytes are `b 0`, .., from I on: V0 .. VX, or the three
digits of VX. -/
def Obligations.StoredWordIsFetchedNext : Prop :=
  ∀ (s t : State) (x : RegIdx) (n : Nat) (b : Nat → Nat), s.mem.wf →
    (exec (.stRegs x) s = .next t ∧ n = x.val + 1 ∧ ∀ k : RegIdx, k ≤ x → b k.val = s.v[k].toNat) ∨
    (exec (.ldB x) s = .next t ∧ n = 3 ∧ b 0 = s.v[x].toNat / 100 ∧
      b 1 = s.v[x].toNat / 10 % 10 ∧ b 2 = s.v[x].toNat % 10) →
    (∀ k < n, s.pc.toNat % 4096 = (s.i.toNat + k) % 4096 → t.fetch.toNat / 256 = b k) ∧
    (∀ k < n, (s.pc.toNat + 1) % 4096 = (s.i.toNat + k) % 4096 → t.fetch.toNat % 256 = b k) ∧
    ((∀ k < n, s.pc.toNat % 4096 ≠ (s.i.toNat + k) % 4096) →
      t.fetch.toNat / 256 = s.fetch.toNat / 256) ∧
    ((∀ k < n, (s.pc.toNat + 1) % 4096 ≠ (s.i.toNat + k) % 4096) →
      t.fetch.toNat % 256 = s.fetch.toNat % 256)

/-! ## Display -/

/-- 00E0 clears every cell and sets FC (41_display.md R71). -/
def Obligations.ClsClearsEveryCell : Prop :=
  decodeWord 0x00E0 = .ok .cls ∧
  ∀ s : State, ∃ t, exec .cls s = .next t ∧
    (∀ x y, x < 64 → y < 32 → t.grid.pixel x y = false) ∧ t.fc = true ∧
    OnlyTouches (fun p => (∃ x y, p = .pixel x y) ∨ p = .frameFlag) s t

/-- DXYN XORs the sprite at I into the grid, clipped at the right and bottom edges, from the start
cell reduced mod the grid's size; VF is 1 iff a set sprite bit in the grid met a set pixel, else 0;
FC is set (41_display.md R72). -/
def Obligations.DrwXorsTheSpriteAndReportsCollision : Prop :=
  ∀ (x y : RegIdx) (n : BitVec 4),
    decodeWord (BitVec.ofNat 16 (0xD000 + x.val * 256 + y.val * 16 + n.toNat)) =
      .ok (.drw x y n) ∧
    ∀ s : State, ∃ t, exec (.drw x y n) s = .next t ∧
      (∀ cx cy, t.grid.pixel cx cy = (s.grid.pixel cx cy ^^
        s.spriteAt (s.v[x].toNat % 64) (s.v[y].toNat % 32) n.toNat cx cy)) ∧
      (t.v[15] = 1 ∨ t.v[15] = 0) ∧
      (t.v[15] = 1 ↔ ∃ cx cy, s.grid.pixel cx cy = true ∧
        s.spriteAt (s.v[x].toNat % 64) (s.v[y].toNat % 32) n.toNat cx cy = true) ∧
      t.fc = true ∧
      OnlyTouches (fun p => p = .reg 15 ∨ (∃ cx cy, p = .pixel cx cy) ∨ p = .frameFlag) s t

/-- Drawing the same sprite twice restores the grid, and the second draw sets VF iff the first one
turned at least one pixel on (41_display.md R72, 90_conflicts.md C7; log entry 9). -/
def Obligations.DrawingTwiceRestoresTheGrid : Prop :=
  ∀ (s t u : State) (x y : RegIdx) (n : BitVec 4), x ≠ 15 → y ≠ 15 →
    exec (.drw x y n) s = .next t → exec (.drw x y n) t = .next u →
    u.grid = s.grid ∧
    (u.v[15] = 1 ↔ ∃ cx cy, s.grid.pixel cx cy = false ∧ t.grid.pixel cx cy = true)

/-! ## Control transfer -/

/-- 1NNN and BNNN: PC becomes NNN, or NNN + V0 as a 16-bit sum, and nothing else changes
(42_flow.md R74, R76). -/
def Obligations.JumpsSetPc : Prop :=
  ∀ nnn : Addr12,
    decodeWord (BitVec.ofNat 16 (0x1000 + nnn.toNat)) = .ok (.jp nnn) ∧
    decodeWord (BitVec.ofNat 16 (0xB000 + nnn.toNat)) = .ok (.jpV0 nnn) ∧
    ∀ s : State,
      (∃ t, exec (.jp nnn) s = .next t ∧ t.pc.toNat = nnn.toNat ∧
        OnlyTouches (fun p => p = .pc) s t) ∧
      (∃ t, exec (.jpV0 nnn) s = .next t ∧ t.pc.toNat = nnn.toNat + s.v[0].toNat ∧
        OnlyTouches (fun p => p = .pc) s t)

/-- 2NNN pushes the already advanced PC and jumps; with SP = 16 it takes StackOverflowError and
writes nothing beyond the fault record (42_flow.md R75, 60_exceptions.md R109). -/
def Obligations.CallPushesOrOverflows : Prop :=
  ∀ nnn : Addr12,
    decodeWord (BitVec.ofNat 16 (0x2000 + nnn.toNat)) = .ok (.call nnn) ∧
    ∀ s : State,
      (∀ j : Fin 16, j.val = s.sp.val → ∃ t, exec (.call nnn) s = .next t ∧
        t.stack[j] = s.pc ∧ t.sp.val = s.sp.val + 1 ∧ t.pc.toNat = nnn.toNat ∧
        OnlyTouches (fun p => p = .slot j ∨ p = .sp ∨ p = .pc) s t) ∧
      (s.sp = 16 → ∃ t, exec (.call nnn) s = .next t ∧ t.faultCode = .stackOverflow ∧
        t.faultPc = s.pc - 2 ∧ t.faultWord.toNat = 0x2000 + nnn.toNat ∧
        OnlyTouches FaultPart s t)

/-- 00EE pops PC and leaves the slot's value; with SP = 0 it takes StackUnderflowError and writes
nothing beyond the fault record (42_flow.md R73, 60_exceptions.md R110, 10_state.md R21). -/
def Obligations.RetPopsOrUnderflows : Prop :=
  decodeWord 0x00EE = .ok .ret ∧
  ∀ s : State,
    (∀ j : Fin 16, s.sp.val = j.val + 1 → ∃ t, exec .ret s = .next t ∧
      t.pc = s.stack[j] ∧ t.sp.val = j.val ∧
      OnlyTouches (fun p => p = .pc ∨ p = .sp) s t) ∧
    (s.sp = 0 → ∃ t, exec .ret s = .next t ∧ t.faultCode = .stackUnderflow ∧
      t.faultPc = s.pc - 2 ∧ t.faultWord = 0x00EE ∧ OnlyTouches FaultPart s t)

/-- A call that is taken and the return right after it are balanced: PC is the address after the
call, SP is what it was, and every register, byte and pixel is as before (42_flow.md R73, R75). -/
def Obligations.CallThenReturnIsBalanced : Prop :=
  ∀ (s t : State) (nnn : Addr12), s.sp.val < 16 → exec (.call nnn) s = .next t →
    ∃ u, exec .ret t.advancePc = .next u ∧
      OnlyTouches (fun p => ∃ j : Fin 16, j.val = s.sp.val ∧ p = .slot j) s u

/-! ## Skips -/

/-- 3XNN and 4XNN skip one instruction word when VX equals, or differs from, NN
(43_skip.md R77, R78, R79). -/
def Obligations.SkipOnImmediate : Prop :=
  ∀ (x : RegIdx) (nn : Byte),
    decodeWord (BitVec.ofNat 16 (0x3000 + x.val * 256 + nn.toNat)) = .ok (.seImm x nn) ∧
    decodeWord (BitVec.ofNat 16 (0x4000 + x.val * 256 + nn.toNat)) = .ok (.sneImm x nn) ∧
    ∀ s : State,
      (∃ t, exec (.seImm x nn) s = .next t ∧
        t.pc.toNat = (if s.v[x] = nn then (s.pc.toNat + 2) % 65536 else s.pc.toNat) ∧
        OnlyTouches (fun p => p = .pc) s t) ∧
      (∃ t, exec (.sneImm x nn) s = .next t ∧
        t.pc.toNat = (if s.v[x] = nn then s.pc.toNat else (s.pc.toNat + 2) % 65536) ∧
        OnlyTouches (fun p => p = .pc) s t)

/-- 5XY0 and 9XY0 skip one instruction word when VX equals, or differs from, VY; with a low nibble
other than 0 the word is no instruction (43_skip.md R80, R81). -/
def Obligations.SkipOnRegisters : Prop :=
  ∀ x y : RegIdx,
    decodeWord (BitVec.ofNat 16 (0x5000 + x.val * 256 + y.val * 16)) = .ok (.seReg x y) ∧
    decodeWord (BitVec.ofNat 16 (0x9000 + x.val * 256 + y.val * 16)) = .ok (.sneReg x y) ∧
    (∀ n : Nat, 0 < n → n < 16 →
      wordLegal (BitVec.ofNat 16 (0x5000 + x.val * 256 + y.val * 16 + n)) = false ∧
      wordLegal (BitVec.ofNat 16 (0x9000 + x.val * 256 + y.val * 16 + n)) = false) ∧
    ∀ s : State,
      (∃ t, exec (.seReg x y) s = .next t ∧
        t.pc.toNat = (if s.v[x] = s.v[y] then (s.pc.toNat + 2) % 65536 else s.pc.toNat) ∧
        OnlyTouches (fun p => p = .pc) s t) ∧
      (∃ t, exec (.sneReg x y) s = .next t ∧
        t.pc.toNat = (if s.v[x] = s.v[y] then s.pc.toNat else (s.pc.toNat + 2) % 65536) ∧
        OnlyTouches (fun p => p = .pc) s t)

/-- EX9E and EXA1 skip one instruction word when key VX is down, or up; with VX > 15 they take
KeyIndexError and write nothing beyond the fault record (43_skip.md R82, R83;
60_exceptions.md R112). -/
def Obligations.SkipOnKeyOrKeyIndexFault : Prop :=
  ∀ x : RegIdx,
    decodeWord (BitVec.ofNat 16 (0xE09E + x.val * 256)) = .ok (.skp x) ∧
    decodeWord (BitVec.ofNat 16 (0xE0A1 + x.val * 256)) = .ok (.sknp x) ∧
    (∀ (s : State) (k : KeyIdx), s.v[x].toNat = k.val →
      (∃ t, exec (.skp x) s = .next t ∧
        t.pc.toNat = (if s.keys[k] = true then (s.pc.toNat + 2) % 65536 else s.pc.toNat) ∧
        OnlyTouches (fun p => p = .pc) s t) ∧
      (∃ t, exec (.sknp x) s = .next t ∧
        t.pc.toNat = (if s.keys[k] = true then s.pc.toNat else (s.pc.toNat + 2) % 65536) ∧
        OnlyTouches (fun p => p = .pc) s t)) ∧
    (∀ s : State, 15 < s.v[x].toNat →
      (∃ t, exec (.skp x) s = .next t ∧ t.faultCode = .keyIndex ∧ t.faultPc = s.pc - 2 ∧
        t.faultWord.toNat = 0xE09E + x.val * 256 ∧ OnlyTouches FaultPart s t) ∧
      (∃ t, exec (.sknp x) s = .next t ∧ t.faultCode = .keyIndex ∧ t.faultPc = s.pc - 2 ∧
        t.faultWord.toNat = 0xE0A1 + x.val * 256 ∧ OnlyTouches FaultPart s t))

/-! ## Registers and arithmetic -/

/-- 6XNN, 7XNN and 8XY0 (44_alu.md R85, R86, R87): VX becomes NN, the wrapped sum, or VY; no flag is
written. -/
def Obligations.LoadAddImmediateAndCopy : Prop :=
  ∀ (x y : RegIdx) (nn : Byte),
    decodeWord (BitVec.ofNat 16 (0x6000 + x.val * 256 + nn.toNat)) = .ok (.ldImm x nn) ∧
    decodeWord (BitVec.ofNat 16 (0x7000 + x.val * 256 + nn.toNat)) = .ok (.addImm x nn) ∧
    decodeWord (BitVec.ofNat 16 (0x8000 + x.val * 256 + y.val * 16)) = .ok (.ldReg x y) ∧
    ∀ s : State,
      (∃ t, exec (.ldImm x nn) s = .next t ∧ t.v[x] = nn ∧
        OnlyTouches (fun p => p = .reg x) s t) ∧
      (∃ t, exec (.addImm x nn) s = .next t ∧
        t.v[x].toNat = (s.v[x].toNat + nn.toNat) % 256 ∧
        OnlyTouches (fun p => p = .reg x) s t) ∧
      (∃ t, exec (.ldReg x y) s = .next t ∧ t.v[x] = s.v[y] ∧
        OnlyTouches (fun p => p = .reg x) s t)

/-- 8XY1, 8XY2 and 8XY3 (44_alu.md R88, R89, R90): bitwise, and VF is not reset. -/
def Obligations.BitwiseOperations : Prop :=
  ∀ x y : RegIdx,
    decodeWord (BitVec.ofNat 16 (0x8001 + x.val * 256 + y.val * 16)) = .ok (.orReg x y) ∧
    decodeWord (BitVec.ofNat 16 (0x8002 + x.val * 256 + y.val * 16)) = .ok (.andReg x y) ∧
    decodeWord (BitVec.ofNat 16 (0x8003 + x.val * 256 + y.val * 16)) = .ok (.xorReg x y) ∧
    ∀ s : State,
      (∃ t, exec (.orReg x y) s = .next t ∧
        (∀ k < 8, t.v[x].getLsbD k = (s.v[x].getLsbD k || s.v[y].getLsbD k)) ∧
        OnlyTouches (fun p => p = .reg x) s t) ∧
      (∃ t, exec (.andReg x y) s = .next t ∧
        (∀ k < 8, t.v[x].getLsbD k = (s.v[x].getLsbD k && s.v[y].getLsbD k)) ∧
        OnlyTouches (fun p => p = .reg x) s t) ∧
      (∃ t, exec (.xorReg x y) s = .next t ∧
        (∀ k < 8, t.v[x].getLsbD k = (s.v[x].getLsbD k ^^ s.v[y].getLsbD k)) ∧
        OnlyTouches (fun p => p = .reg x) s t)

/-- 8XY4: the sum mod 256 in VX, then VF = 1 iff it overflows; for X = F, VF ends as the flag
(44_alu.md R91). -/
def Obligations.AddRegistersThenCarry : Prop :=
  ∀ x y : RegIdx,
    decodeWord (BitVec.ofNat 16 (0x8004 + x.val * 256 + y.val * 16)) = .ok (.addReg x y) ∧
    ∀ s : State, ∃ t, exec (.addReg x y) s = .next t ∧
      (x ≠ 15 → t.v[x].toNat = (s.v[x].toNat + s.v[y].toNat) % 256) ∧
      t.v[15] = (if s.v[x].toNat + s.v[y].toNat > 255 then 1 else 0) ∧
      OnlyTouches (fun p => p = .reg x ∨ p = .reg 15) s t

/-- 8XY5 and 8XY7: X minus Y, or Y minus X, mod 256 in VX, then VF = 1 iff there is no borrow; for
X = F, VF ends as the flag (44_alu.md R92, R94). -/
def Obligations.SubtractRegistersThenNoBorrow : Prop :=
  ∀ x y : RegIdx,
    decodeWord (BitVec.ofNat 16 (0x8005 + x.val * 256 + y.val * 16)) = .ok (.subReg x y) ∧
    decodeWord (BitVec.ofNat 16 (0x8007 + x.val * 256 + y.val * 16)) = .ok (.subn x y) ∧
    ∀ s : State,
      (∃ t, exec (.subReg x y) s = .next t ∧
        (x ≠ 15 → (t.v[x].toNat : Int) = ((s.v[x].toNat : Int) - s.v[y].toNat) % 256) ∧
        t.v[15] = (if s.v[x].toNat ≥ s.v[y].toNat then 1 else 0) ∧
        OnlyTouches (fun p => p = .reg x ∨ p = .reg 15) s t) ∧
      (∃ t, exec (.subn x y) s = .next t ∧
        (x ≠ 15 → (t.v[x].toNat : Int) = ((s.v[y].toNat : Int) - s.v[x].toNat) % 256) ∧
        t.v[15] = (if s.v[y].toNat ≥ s.v[x].toNat then 1 else 0) ∧
        OnlyTouches (fun p => p = .reg x ∨ p = .reg 15) s t)

/-- 8XY6 and 8XYE: VX shifted by one, whatever VY holds, then VF = the bit shifted out; for X = F,
VF ends as that bit (44_alu.md R93, R95). -/
def Obligations.ShiftsThenShiftedOutBit : Prop :=
  ∀ x y : RegIdx,
    decodeWord (BitVec.ofNat 16 (0x8006 + x.val * 256 + y.val * 16)) = .ok (.shr x y) ∧
    decodeWord (BitVec.ofNat 16 (0x800E + x.val * 256 + y.val * 16)) = .ok (.shl x y) ∧
    ∀ s : State,
      (∃ t, exec (.shr x y) s = .next t ∧
        (x ≠ 15 → t.v[x].toNat = s.v[x].toNat / 2) ∧
        t.v[15].toNat = s.v[x].toNat % 2 ∧
        OnlyTouches (fun p => p = .reg x ∨ p = .reg 15) s t) ∧
      (∃ t, exec (.shl x y) s = .next t ∧
        (x ≠ 15 → t.v[x].toNat = s.v[x].toNat * 2 % 256) ∧
        t.v[15].toNat = s.v[x].toNat / 128 ∧
        OnlyTouches (fun p => p = .reg x ∨ p = .reg 15) s t)

/-- CXNN: VX becomes a random byte masked by NN, the byte presented where there is one and the free
value of the draw otherwise, whatever it is (44_alu.md R96; the free value is the model's, log
entry 3). -/
def Obligations.RndMasksARandomByte : Prop :=
  ∀ (x : RegIdx) (nn : Byte),
    decodeWord (BitVec.ofNat 16 (0xC000 + x.val * 256 + nn.toNat)) = .ok (.rnd x nn) ∧
    ∀ s : State, ∃ t, exec (.rnd x nn) s = .next t ∧
      (∀ b rest, s.rndIn = b :: rest → t.v[x] = b &&& nn) ∧
      (s.rndIn = [] → t.v[x] = Config.randomByte s.draws &&& nn) ∧
      OnlyTouches (fun p => p = .reg x ∨ p = .rndIn ∨ p = .draws) s t

/-! ## Address register and memory -/

/-- ANNN, FX1E and FX29: I becomes NNN, the sum mod 2^16, or the glyph address of the full VX; no
flag is written (45_index_memory.md R97, R98, R99). -/
def Obligations.AddressRegisterWrites : Prop :=
  ∀ (nnn : Addr12) (x : RegIdx),
    decodeWord (BitVec.ofNat 16 (0xA000 + nnn.toNat)) = .ok (.ldI nnn) ∧
    decodeWord (BitVec.ofNat 16 (0xF01E + x.val * 256)) = .ok (.addI x) ∧
    decodeWord (BitVec.ofNat 16 (0xF029 + x.val * 256)) = .ok (.ldF x) ∧
    ∀ s : State,
      (∃ t, exec (.ldI nnn) s = .next t ∧ t.i.toNat = nnn.toNat ∧
        OnlyTouches (fun p => p = .addressReg) s t) ∧
      (∃ t, exec (.addI x) s = .next t ∧ t.i.toNat = (s.i.toNat + s.v[x].toNat) % 65536 ∧
        OnlyTouches (fun p => p = .addressReg) s t) ∧
      (∃ t, exec (.ldF x) s = .next t ∧ t.i.toNat = 0x050 + 5 * s.v[x].toNat ∧
        OnlyTouches (fun p => p = .addressReg) s t)

/-- FX33: the hundreds, tens and units of VX at I, I + 1, I + 2 mod 4096; no other byte and no
register changes (45_index_memory.md R100). -/
def Obligations.StoreDecimalDigits : Prop :=
  ∀ x : RegIdx,
    decodeWord (BitVec.ofNat 16 (0xF033 + x.val * 256)) = .ok (.ldB x) ∧
    ∀ s : State, s.mem.wf → ∃ t, exec (.ldB x) s = .next t ∧
      (t.readByte s.i.toNat).toNat = s.v[x].toNat / 100 ∧
      (t.readByte (s.i.toNat + 1)).toNat = s.v[x].toNat / 10 % 10 ∧
      (t.readByte (s.i.toNat + 2)).toNat = s.v[x].toNat % 10 ∧
      OnlyTouches (BytesFrom s.i.toNat 3) s t

/-- FX55: V0..VX at I .. I + X mod 4096; no other byte and no register changes
(45_index_memory.md R101). -/
def Obligations.StoreRegisters : Prop :=
  ∀ x : RegIdx,
    decodeWord (BitVec.ofNat 16 (0xF055 + x.val * 256)) = .ok (.stRegs x) ∧
    ∀ s : State, s.mem.wf → ∃ t, exec (.stRegs x) s = .next t ∧
      (∀ k : RegIdx, k ≤ x → t.readByte (s.i.toNat + k.val) = s.v[k]) ∧
      OnlyTouches (BytesFrom s.i.toNat (x.val + 1)) s t

/-- FX65: V0..VX from I .. I + X mod 4096; nothing else changes (45_index_memory.md R102). -/
def Obligations.LoadRegisters : Prop :=
  ∀ x : RegIdx,
    decodeWord (BitVec.ofNat 16 (0xF065 + x.val * 256)) = .ok (.ldRegs x) ∧
    ∀ s : State, ∃ t, exec (.ldRegs x) s = .next t ∧
      (∀ k : RegIdx, k ≤ x → t.v[k] = s.readByte (s.i.toNat + k.val)) ∧
      OnlyTouches (fun p => ∃ k : RegIdx, k ≤ x ∧ p = .reg k) s t

/-- FX55 then FX65 through the same I restores V0..VX from whatever they became in between
(45_index_memory.md R101, R102). -/
def Obligations.StoredRegistersAreLoadedBack : Prop :=
  ∀ (s t u : State) (x : RegIdx) (v : Vector Byte 16), s.mem.wf →
    exec (.stRegs x) s = .next t → exec (.ldRegs x) { t with v := v } = .next u →
    ∀ k : RegIdx, u.v[k] = if k ≤ x then s.v[k] else v[k]

/-! ## Timers and keys -/

/-- FX07, FX15 and FX18 copy between VX and the timers and change nothing else, the divider counter
included; the host's audio reads what FX18 wrote; in a whole step FX07 reads DT after that step's
tick (46_timer_key.md R103, R105, R106). -/
def Obligations.TimerTransfers : Prop :=
  ∀ x : RegIdx,
    decodeWord (BitVec.ofNat 16 (0xF007 + x.val * 256)) = .ok (.ldVxDt x) ∧
    decodeWord (BitVec.ofNat 16 (0xF015 + x.val * 256)) = .ok (.ldDtVx x) ∧
    decodeWord (BitVec.ofNat 16 (0xF018 + x.val * 256)) = .ok (.ldStVx x) ∧
    ∀ s : State,
      (∃ t, exec (.ldVxDt x) s = .next t ∧ t.v[x] = s.dt ∧
        OnlyTouches (fun p => p = .reg x) s t) ∧
      (∃ t, exec (.ldDtVx x) s = .next t ∧ t.dt = s.v[x] ∧
        OnlyTouches (fun p => p = .dt) s t) ∧
      (∃ t, exec (.ldStVx x) s = .next t ∧ t.st = s.v[x] ∧
        (Txn.apply t .readSound).2 = .sound s.v[x] ∧ OnlyTouches (fun p => p = .st) s t) ∧
      (s.faultCode = .noFault → decodeWord s.fetch = .ok (.ldVxDt x) → ∃ t, step s = .next t ∧
        t.v[x].toNat = if s.tc ≤ 1 then s.dt.toNat - 1 else s.dt.toNat)

/-- FX0A: with no key down PC goes back by 2 and nothing else changes; else VX is the
lowest-numbered key that is down and PC stays past the instruction. A whole step with no key down
leaves PC at the instruction, one with a key down moves one instruction on, and either way FC is
cleared and the timers tick (46_timer_key.md R104; 40_cycle.md R62, R65). -/
def Obligations.WaitForKeyPolls : Prop :=
  ∀ x : RegIdx,
    decodeWord (BitVec.ofNat 16 (0xF00A + x.val * 256)) = .ok (.ldVxK x) ∧
    ∀ s : State,
      ((∀ k : KeyIdx, s.keys[k] = false) → ∃ t, exec (.ldVxK x) s = .next t ∧
        (t.pc.toNat : Int) = ((s.pc.toNat : Int) - 2) % 65536 ∧
        OnlyTouches (fun p => p = .pc) s t) ∧
      (∀ k : KeyIdx, s.keys[k] = true → (∀ j < k, s.keys[j] = false) →
        ∃ t, exec (.ldVxK x) s = .next t ∧ t.v[x].toNat = k.val ∧
          OnlyTouches (fun p => p = .reg x) s t) ∧
      (s.faultCode = .noFault → decodeWord s.fetch = .ok (.ldVxK x) → ∃ t, step s = .next t ∧
        ((∀ k : KeyIdx, s.keys[k] = false) → t.pc = s.pc ∧ t.v = s.v) ∧
        ((∃ k : KeyIdx, s.keys[k] = true) → t.pc = s.pc + 2 ∧ ∃ k : KeyIdx,
          s.keys[k] = true ∧ t.v[x].toNat = k.val ∧ ∀ j < k, s.keys[j] = false) ∧
        t.fc = false ∧ t.tc = s.timerTick.tc ∧ t.dt = s.timerTick.dt ∧ t.st = s.timerTick.st)
end

