-- ==== Sys2Proof/Laws/Encoding.lean ====
section
/-! SUPPORT. The fields of an encoded word (30_encoding.md R49), so that no later proof unfolds a
concatenation or an extraction. -/

namespace Sys2Proof

@[simp] theorem regBits_toNat (x : RegIdx) : (regBits x).toNat = x.val := rfl

/-- Two register fields are equal when they hold the same number. -/
theorem xField_eq_iff (w : Word) (x : RegIdx) : xField w = x ↔ w.toNat / 256 % 16 = x.val := by
  rw [Fin.ext_iff]
  simp [xField, Nat.shiftRight_eq_div_pow]

theorem yField_eq_iff (w : Word) (y : RegIdx) : yField w = y ↔ w.toNat / 16 % 16 = y.val := by
  rw [Fin.ext_iff]
  simp [yField, Nat.shiftRight_eq_div_pow]

theorem opField_toNat (w : Word) : (opField w).toNat = w.toNat / 4096 % 16 := by
  simp [opField, BitVec.extractLsb'_toNat, Nat.shiftRight_eq_div_pow]

theorem nField_toNat (w : Word) : (nField w).toNat = w.toNat % 16 := by
  simp [nField, BitVec.extractLsb'_toNat]

theorem nnField_toNat (w : Word) : (nnField w).toNat = w.toNat % 256 := by
  simp [nnField, BitVec.extractLsb'_toNat]

theorem nnnField_toNat (w : Word) : (nnnField w).toNat = w.toNat % 4096 := by
  simp [nnnField, BitVec.extractLsb'_toNat]

/-- The number of a concatenation: the high part shifted past the low part. -/
theorem append_toNat {m n : Nat} (a : BitVec m) (b : BitVec n) :
    (a ++ b).toNat = a.toNat * 2 ^ n + b.toNat := by
  rw [BitVec.toNat_append, ← Nat.shiftLeft_add_eq_or_of_lt b.isLt, Nat.shiftLeft_eq]

theorem encodeA_toNat (op : BitVec 4) (nnn : Addr12) :
    (encodeA op nnn).toNat = op.toNat * 4096 + nnn.toNat := append_toNat op nnn

theorem encodeXK_toNat (op : BitVec 4) (x : RegIdx) (nn : Byte) :
    (encodeXK op x nn).toNat = op.toNat * 4096 + (x.val * 256 + nn.toNat) := by
  refine (append_toNat op (regBits x ++ nn)).trans ?_
  rw [append_toNat]
  rfl

theorem encodeXYN_toNat (op : BitVec 4) (x y : RegIdx) (n : BitVec 4) :
    (encodeXYN op x y n).toNat = op.toNat * 4096 + (x.val * 256 + (y.val * 16 + n.toNat)) := by
  refine (append_toNat op (regBits x ++ (regBits y ++ n))).trans ?_
  rw [append_toNat, append_toNat]
  rfl

/-- The bits of a format `A` word (R49). -/
theorem encodeA_getLsbD (op : BitVec 4) (nnn : Addr12) (k : Nat) :
    (encodeA op nnn).getLsbD k = if k < 12 then nnn.getLsbD k else op.getLsbD (k - 12) :=
  BitVec.getLsbD_append

/-- The bits of a format `XK` word (R49). -/
theorem encodeXK_getLsbD (op : BitVec 4) (x : RegIdx) (nn : Byte) (k : Nat) :
    (encodeXK op x nn).getLsbD k =
      if k < 12 then (if k < 8 then nn.getLsbD k else (regBits x).getLsbD (k - 8))
      else op.getLsbD (k - 12) := by
  rw [← BitVec.getLsbD_append]
  exact BitVec.getLsbD_append

/-- The bits of a format `XYN` word (R49). -/
theorem encodeXYN_getLsbD (op : BitVec 4) (x y : RegIdx) (n : BitVec 4) (k : Nat) :
    (encodeXYN op x y n).getLsbD k =
      if k < 12 then
        (if k < 8 then (if k < 4 then n.getLsbD k else (regBits y).getLsbD (k - 4))
        else (regBits x).getLsbD (k - 8))
      else op.getLsbD (k - 12) := by
  rw [← BitVec.getLsbD_append, ← BitVec.getLsbD_append]
  exact BitVec.getLsbD_append

section formatA
variable (op : BitVec 4) (nnn : Addr12)

@[simp] theorem opField_encodeA : opField (encodeA op nnn) = op := by
  apply BitVec.eq_of_toNat_eq
  rw [opField_toNat, encodeA_toNat]
  omega

@[simp] theorem nnnField_encodeA : nnnField (encodeA op nnn) = nnn := by
  apply BitVec.eq_of_toNat_eq
  rw [nnnField_toNat, encodeA_toNat]
  omega

end formatA

section formatXK
variable (op : BitVec 4) (x : RegIdx) (nn : Byte)

@[simp] theorem opField_encodeXK : opField (encodeXK op x nn) = op := by
  apply BitVec.eq_of_toNat_eq
  rw [opField_toNat, encodeXK_toNat]
  omega

@[simp] theorem xField_encodeXK : xField (encodeXK op x nn) = x := by
  rw [xField_eq_iff, encodeXK_toNat]
  omega

@[simp] theorem nnField_encodeXK : nnField (encodeXK op x nn) = nn := by
  apply BitVec.eq_of_toNat_eq
  rw [nnField_toNat, encodeXK_toNat]
  omega

end formatXK

section formatXYN
variable (op : BitVec 4) (x y : RegIdx) (n : BitVec 4)

@[simp] theorem opField_encodeXYN : opField (encodeXYN op x y n) = op := by
  apply BitVec.eq_of_toNat_eq
  rw [opField_toNat, encodeXYN_toNat]
  omega

@[simp] theorem xField_encodeXYN : xField (encodeXYN op x y n) = x := by
  rw [xField_eq_iff, encodeXYN_toNat]
  omega

@[simp] theorem yField_encodeXYN : yField (encodeXYN op x y n) = y := by
  rw [yField_eq_iff, encodeXYN_toNat]
  omega

@[simp] theorem nField_encodeXYN : nField (encodeXYN op x y n) = n := by
  apply BitVec.eq_of_toNat_eq
  rw [nField_toNat, encodeXYN_toNat]
  omega

end formatXYN

section word
variable (w : Word)

/-- A word is its format `A` fields put together. -/
theorem encodeA_fields : encodeA (opField w) (nnnField w) = w := by
  apply BitVec.eq_of_toNat_eq
  rw [encodeA_toNat, opField_toNat, nnnField_toNat]
  omega

/-- A word is its format `XK` fields put together. -/
theorem encodeXK_fields : encodeXK (opField w) (xField w) (nnField w) = w := by
  have hx := (xField_eq_iff w (xField w)).1 rfl
  apply BitVec.eq_of_toNat_eq
  rw [encodeXK_toNat, opField_toNat, nnField_toNat]
  omega

/-- A word is its format `XYN` fields put together. -/
theorem encodeXYN_fields : encodeXYN (opField w) (xField w) (yField w) (nField w) = w := by
  have hx := (xField_eq_iff w (xField w)).1 rfl
  have hy := (yField_eq_iff w (yField w)).1 rfl
  apply BitVec.eq_of_toNat_eq
  rw [encodeXYN_toNat, opField_toNat, nField_toNat]
  omega

/-- A word from its family and NNN, as numbers (format `A` and, with a fixed NNN, format `O`). -/
theorem encodeA_of_fields {op : BitVec 4} {nnn : Addr12} (ho : (opField w).toNat = op.toNat)
    (hn : (nnnField w).toNat = nnn.toNat) : encodeA op nnn = w := by
  rw [← BitVec.eq_of_toNat_eq ho, ← BitVec.eq_of_toNat_eq hn, encodeA_fields]

/-- A word from its family and NN, as numbers (formats `XK` and, with a fixed NN, `XS`). -/
theorem encodeXK_of_fields {op : BitVec 4} {nn : Byte} (ho : (opField w).toNat = op.toNat)
    (hn : (nnField w).toNat = nn.toNat) : encodeXK op (xField w) nn = w := by
  rw [← BitVec.eq_of_toNat_eq ho, ← BitVec.eq_of_toNat_eq hn, encodeXK_fields]

/-- A word from its family and N, as numbers (formats `XYN` and, with a fixed N, `XY`). -/
theorem encodeXYN_of_fields {op n : BitVec 4} (ho : (opField w).toNat = op.toNat)
    (hn : (nField w).toNat = n.toNat) : encodeXYN op (xField w) (yField w) n = w := by
  rw [← BitVec.eq_of_toNat_eq ho, ← BitVec.eq_of_toNat_eq hn, encodeXYN_fields]

/-- A word is its two bytes put together. -/
theorem joinBytes_bytes : joinBytes (highByte w) (lowByte w) = w := by
  apply BitVec.eq_of_toNat_eq
  simp only [joinBytes, append_toNat, highByte, lowByte, BitVec.extractLsb'_toNat,
    Nat.shiftRight_eq_div_pow]
  omega

end word

end Sys2Proof
end

