-- ==== Sys2Proof/Laws/State.lean ====
section
/-! SUPPORT. The state's updates read back: one lemma per field per update, so that no later proof
unfolds a record update; the composed updates are rewritten into these. -/

namespace Sys2Proof.Machine

section setMem
variable (s : State) (m : Memory)

@[simp] theorem State.setMem_v : (s.setMem m).v = s.v := rfl
@[simp] theorem State.setMem_i : (s.setMem m).i = s.i := rfl
@[simp] theorem State.setMem_pc : (s.setMem m).pc = s.pc := rfl
@[simp] theorem State.setMem_sp : (s.setMem m).sp = s.sp := rfl
@[simp] theorem State.setMem_stack : (s.setMem m).stack = s.stack := rfl
@[simp] theorem State.setMem_dt : (s.setMem m).dt = s.dt := rfl
@[simp] theorem State.setMem_st : (s.setMem m).st = s.st := rfl
@[simp] theorem State.setMem_tc : (s.setMem m).tc = s.tc := rfl
@[simp] theorem State.setMem_mem : (s.setMem m).mem = m := rfl
@[simp] theorem State.setMem_grid : (s.setMem m).grid = s.grid := rfl
@[simp] theorem State.setMem_fc : (s.setMem m).fc = s.fc := rfl
@[simp] theorem State.setMem_keys : (s.setMem m).keys = s.keys := rfl
@[simp] theorem State.setMem_faultCode : (s.setMem m).faultCode = s.faultCode := rfl
@[simp] theorem State.setMem_faultPc : (s.setMem m).faultPc = s.faultPc := rfl
@[simp] theorem State.setMem_faultWord : (s.setMem m).faultWord = s.faultWord := rfl
@[simp] theorem State.setMem_divider : (s.setMem m).divider = s.divider := rfl
@[simp] theorem State.setMem_rndIn : (s.setMem m).rndIn = s.rndIn := rfl
@[simp] theorem State.setMem_draws : (s.setMem m).draws = s.draws := rfl

end setMem

section setReg
variable (s : State) (x : RegIdx) (b : Byte)

@[simp] theorem State.setReg_v : (s.setReg x b).v = s.v.set x b := rfl
@[simp] theorem State.setReg_i : (s.setReg x b).i = s.i := rfl
@[simp] theorem State.setReg_pc : (s.setReg x b).pc = s.pc := rfl
@[simp] theorem State.setReg_sp : (s.setReg x b).sp = s.sp := rfl
@[simp] theorem State.setReg_stack : (s.setReg x b).stack = s.stack := rfl
@[simp] theorem State.setReg_dt : (s.setReg x b).dt = s.dt := rfl
@[simp] theorem State.setReg_st : (s.setReg x b).st = s.st := rfl
@[simp] theorem State.setReg_tc : (s.setReg x b).tc = s.tc := rfl
@[simp] theorem State.setReg_mem : (s.setReg x b).mem = s.mem := rfl
@[simp] theorem State.setReg_grid : (s.setReg x b).grid = s.grid := rfl
@[simp] theorem State.setReg_fc : (s.setReg x b).fc = s.fc := rfl
@[simp] theorem State.setReg_keys : (s.setReg x b).keys = s.keys := rfl
@[simp] theorem State.setReg_faultCode : (s.setReg x b).faultCode = s.faultCode := rfl
@[simp] theorem State.setReg_faultPc : (s.setReg x b).faultPc = s.faultPc := rfl
@[simp] theorem State.setReg_faultWord : (s.setReg x b).faultWord = s.faultWord := rfl
@[simp] theorem State.setReg_divider : (s.setReg x b).divider = s.divider := rfl
@[simp] theorem State.setReg_rndIn : (s.setReg x b).rndIn = s.rndIn := rfl
@[simp] theorem State.setReg_draws : (s.setReg x b).draws = s.draws := rfl

end setReg

section setRegs
variable (s : State) (v : Vector Byte 16)

@[simp] theorem State.setRegs_v : (s.setRegs v).v = v := rfl
@[simp] theorem State.setRegs_i : (s.setRegs v).i = s.i := rfl
@[simp] theorem State.setRegs_pc : (s.setRegs v).pc = s.pc := rfl
@[simp] theorem State.setRegs_sp : (s.setRegs v).sp = s.sp := rfl
@[simp] theorem State.setRegs_stack : (s.setRegs v).stack = s.stack := rfl
@[simp] theorem State.setRegs_dt : (s.setRegs v).dt = s.dt := rfl
@[simp] theorem State.setRegs_st : (s.setRegs v).st = s.st := rfl
@[simp] theorem State.setRegs_tc : (s.setRegs v).tc = s.tc := rfl
@[simp] theorem State.setRegs_mem : (s.setRegs v).mem = s.mem := rfl
@[simp] theorem State.setRegs_grid : (s.setRegs v).grid = s.grid := rfl
@[simp] theorem State.setRegs_fc : (s.setRegs v).fc = s.fc := rfl
@[simp] theorem State.setRegs_keys : (s.setRegs v).keys = s.keys := rfl
@[simp] theorem State.setRegs_faultCode : (s.setRegs v).faultCode = s.faultCode := rfl
@[simp] theorem State.setRegs_faultPc : (s.setRegs v).faultPc = s.faultPc := rfl
@[simp] theorem State.setRegs_faultWord : (s.setRegs v).faultWord = s.faultWord := rfl
@[simp] theorem State.setRegs_divider : (s.setRegs v).divider = s.divider := rfl
@[simp] theorem State.setRegs_rndIn : (s.setRegs v).rndIn = s.rndIn := rfl
@[simp] theorem State.setRegs_draws : (s.setRegs v).draws = s.draws := rfl

end setRegs

section setI
variable (s : State) (w : Word)

@[simp] theorem State.setI_v : (s.setI w).v = s.v := rfl
@[simp] theorem State.setI_i : (s.setI w).i = w := rfl
@[simp] theorem State.setI_pc : (s.setI w).pc = s.pc := rfl
@[simp] theorem State.setI_sp : (s.setI w).sp = s.sp := rfl
@[simp] theorem State.setI_stack : (s.setI w).stack = s.stack := rfl
@[simp] theorem State.setI_dt : (s.setI w).dt = s.dt := rfl
@[simp] theorem State.setI_st : (s.setI w).st = s.st := rfl
@[simp] theorem State.setI_tc : (s.setI w).tc = s.tc := rfl
@[simp] theorem State.setI_mem : (s.setI w).mem = s.mem := rfl
@[simp] theorem State.setI_grid : (s.setI w).grid = s.grid := rfl
@[simp] theorem State.setI_fc : (s.setI w).fc = s.fc := rfl
@[simp] theorem State.setI_keys : (s.setI w).keys = s.keys := rfl
@[simp] theorem State.setI_faultCode : (s.setI w).faultCode = s.faultCode := rfl
@[simp] theorem State.setI_faultPc : (s.setI w).faultPc = s.faultPc := rfl
@[simp] theorem State.setI_faultWord : (s.setI w).faultWord = s.faultWord := rfl
@[simp] theorem State.setI_divider : (s.setI w).divider = s.divider := rfl
@[simp] theorem State.setI_rndIn : (s.setI w).rndIn = s.rndIn := rfl
@[simp] theorem State.setI_draws : (s.setI w).draws = s.draws := rfl

end setI

section setPc
variable (s : State) (w : Word)

@[simp] theorem State.setPc_v : (s.setPc w).v = s.v := rfl
@[simp] theorem State.setPc_i : (s.setPc w).i = s.i := rfl
@[simp] theorem State.setPc_pc : (s.setPc w).pc = w := rfl
@[simp] theorem State.setPc_sp : (s.setPc w).sp = s.sp := rfl
@[simp] theorem State.setPc_stack : (s.setPc w).stack = s.stack := rfl
@[simp] theorem State.setPc_dt : (s.setPc w).dt = s.dt := rfl
@[simp] theorem State.setPc_st : (s.setPc w).st = s.st := rfl
@[simp] theorem State.setPc_tc : (s.setPc w).tc = s.tc := rfl
@[simp] theorem State.setPc_mem : (s.setPc w).mem = s.mem := rfl
@[simp] theorem State.setPc_grid : (s.setPc w).grid = s.grid := rfl
@[simp] theorem State.setPc_fc : (s.setPc w).fc = s.fc := rfl
@[simp] theorem State.setPc_keys : (s.setPc w).keys = s.keys := rfl
@[simp] theorem State.setPc_faultCode : (s.setPc w).faultCode = s.faultCode := rfl
@[simp] theorem State.setPc_faultPc : (s.setPc w).faultPc = s.faultPc := rfl
@[simp] theorem State.setPc_faultWord : (s.setPc w).faultWord = s.faultWord := rfl
@[simp] theorem State.setPc_divider : (s.setPc w).divider = s.divider := rfl
@[simp] theorem State.setPc_rndIn : (s.setPc w).rndIn = s.rndIn := rfl
@[simp] theorem State.setPc_draws : (s.setPc w).draws = s.draws := rfl

end setPc

section setDt
variable (s : State) (b : Byte)

@[simp] theorem State.setDt_v : (s.setDt b).v = s.v := rfl
@[simp] theorem State.setDt_i : (s.setDt b).i = s.i := rfl
@[simp] theorem State.setDt_pc : (s.setDt b).pc = s.pc := rfl
@[simp] theorem State.setDt_sp : (s.setDt b).sp = s.sp := rfl
@[simp] theorem State.setDt_stack : (s.setDt b).stack = s.stack := rfl
@[simp] theorem State.setDt_dt : (s.setDt b).dt = b := rfl
@[simp] theorem State.setDt_st : (s.setDt b).st = s.st := rfl
@[simp] theorem State.setDt_tc : (s.setDt b).tc = s.tc := rfl
@[simp] theorem State.setDt_mem : (s.setDt b).mem = s.mem := rfl
@[simp] theorem State.setDt_grid : (s.setDt b).grid = s.grid := rfl
@[simp] theorem State.setDt_fc : (s.setDt b).fc = s.fc := rfl
@[simp] theorem State.setDt_keys : (s.setDt b).keys = s.keys := rfl
@[simp] theorem State.setDt_faultCode : (s.setDt b).faultCode = s.faultCode := rfl
@[simp] theorem State.setDt_faultPc : (s.setDt b).faultPc = s.faultPc := rfl
@[simp] theorem State.setDt_faultWord : (s.setDt b).faultWord = s.faultWord := rfl
@[simp] theorem State.setDt_divider : (s.setDt b).divider = s.divider := rfl
@[simp] theorem State.setDt_rndIn : (s.setDt b).rndIn = s.rndIn := rfl
@[simp] theorem State.setDt_draws : (s.setDt b).draws = s.draws := rfl

end setDt

section setSt
variable (s : State) (b : Byte)

@[simp] theorem State.setSt_v : (s.setSt b).v = s.v := rfl
@[simp] theorem State.setSt_i : (s.setSt b).i = s.i := rfl
@[simp] theorem State.setSt_pc : (s.setSt b).pc = s.pc := rfl
@[simp] theorem State.setSt_sp : (s.setSt b).sp = s.sp := rfl
@[simp] theorem State.setSt_stack : (s.setSt b).stack = s.stack := rfl
@[simp] theorem State.setSt_dt : (s.setSt b).dt = s.dt := rfl
@[simp] theorem State.setSt_st : (s.setSt b).st = b := rfl
@[simp] theorem State.setSt_tc : (s.setSt b).tc = s.tc := rfl
@[simp] theorem State.setSt_mem : (s.setSt b).mem = s.mem := rfl
@[simp] theorem State.setSt_grid : (s.setSt b).grid = s.grid := rfl
@[simp] theorem State.setSt_fc : (s.setSt b).fc = s.fc := rfl
@[simp] theorem State.setSt_keys : (s.setSt b).keys = s.keys := rfl
@[simp] theorem State.setSt_faultCode : (s.setSt b).faultCode = s.faultCode := rfl
@[simp] theorem State.setSt_faultPc : (s.setSt b).faultPc = s.faultPc := rfl
@[simp] theorem State.setSt_faultWord : (s.setSt b).faultWord = s.faultWord := rfl
@[simp] theorem State.setSt_divider : (s.setSt b).divider = s.divider := rfl
@[simp] theorem State.setSt_rndIn : (s.setSt b).rndIn = s.rndIn := rfl
@[simp] theorem State.setSt_draws : (s.setSt b).draws = s.draws := rfl

end setSt

section setGrid
variable (s : State) (g : Grid)

@[simp] theorem State.setGrid_v : (s.setGrid g).v = s.v := rfl
@[simp] theorem State.setGrid_i : (s.setGrid g).i = s.i := rfl
@[simp] theorem State.setGrid_pc : (s.setGrid g).pc = s.pc := rfl
@[simp] theorem State.setGrid_sp : (s.setGrid g).sp = s.sp := rfl
@[simp] theorem State.setGrid_stack : (s.setGrid g).stack = s.stack := rfl
@[simp] theorem State.setGrid_dt : (s.setGrid g).dt = s.dt := rfl
@[simp] theorem State.setGrid_st : (s.setGrid g).st = s.st := rfl
@[simp] theorem State.setGrid_tc : (s.setGrid g).tc = s.tc := rfl
@[simp] theorem State.setGrid_mem : (s.setGrid g).mem = s.mem := rfl
@[simp] theorem State.setGrid_grid : (s.setGrid g).grid = g := rfl
@[simp] theorem State.setGrid_fc : (s.setGrid g).fc = s.fc := rfl
@[simp] theorem State.setGrid_keys : (s.setGrid g).keys = s.keys := rfl
@[simp] theorem State.setGrid_faultCode : (s.setGrid g).faultCode = s.faultCode := rfl
@[simp] theorem State.setGrid_faultPc : (s.setGrid g).faultPc = s.faultPc := rfl
@[simp] theorem State.setGrid_faultWord : (s.setGrid g).faultWord = s.faultWord := rfl
@[simp] theorem State.setGrid_divider : (s.setGrid g).divider = s.divider := rfl
@[simp] theorem State.setGrid_rndIn : (s.setGrid g).rndIn = s.rndIn := rfl
@[simp] theorem State.setGrid_draws : (s.setGrid g).draws = s.draws := rfl

end setGrid

section setFc
variable (s : State) (b : Bool)

@[simp] theorem State.setFc_v : (s.setFc b).v = s.v := rfl
@[simp] theorem State.setFc_i : (s.setFc b).i = s.i := rfl
@[simp] theorem State.setFc_pc : (s.setFc b).pc = s.pc := rfl
@[simp] theorem State.setFc_sp : (s.setFc b).sp = s.sp := rfl
@[simp] theorem State.setFc_stack : (s.setFc b).stack = s.stack := rfl
@[simp] theorem State.setFc_dt : (s.setFc b).dt = s.dt := rfl
@[simp] theorem State.setFc_st : (s.setFc b).st = s.st := rfl
@[simp] theorem State.setFc_tc : (s.setFc b).tc = s.tc := rfl
@[simp] theorem State.setFc_mem : (s.setFc b).mem = s.mem := rfl
@[simp] theorem State.setFc_grid : (s.setFc b).grid = s.grid := rfl
@[simp] theorem State.setFc_fc : (s.setFc b).fc = b := rfl
@[simp] theorem State.setFc_keys : (s.setFc b).keys = s.keys := rfl
@[simp] theorem State.setFc_faultCode : (s.setFc b).faultCode = s.faultCode := rfl
@[simp] theorem State.setFc_faultPc : (s.setFc b).faultPc = s.faultPc := rfl
@[simp] theorem State.setFc_faultWord : (s.setFc b).faultWord = s.faultWord := rfl
@[simp] theorem State.setFc_divider : (s.setFc b).divider = s.divider := rfl
@[simp] theorem State.setFc_rndIn : (s.setFc b).rndIn = s.rndIn := rfl
@[simp] theorem State.setFc_draws : (s.setFc b).draws = s.draws := rfl

end setFc

section setKey
variable (s : State) (k : KeyIdx) (b : Bool)

@[simp] theorem State.setKey_v : (s.setKey k b).v = s.v := rfl
@[simp] theorem State.setKey_i : (s.setKey k b).i = s.i := rfl
@[simp] theorem State.setKey_pc : (s.setKey k b).pc = s.pc := rfl
@[simp] theorem State.setKey_sp : (s.setKey k b).sp = s.sp := rfl
@[simp] theorem State.setKey_stack : (s.setKey k b).stack = s.stack := rfl
@[simp] theorem State.setKey_dt : (s.setKey k b).dt = s.dt := rfl
@[simp] theorem State.setKey_st : (s.setKey k b).st = s.st := rfl
@[simp] theorem State.setKey_tc : (s.setKey k b).tc = s.tc := rfl
@[simp] theorem State.setKey_mem : (s.setKey k b).mem = s.mem := rfl
@[simp] theorem State.setKey_grid : (s.setKey k b).grid = s.grid := rfl
@[simp] theorem State.setKey_fc : (s.setKey k b).fc = s.fc := rfl
@[simp] theorem State.setKey_keys : (s.setKey k b).keys = s.keys.set k b := rfl
@[simp] theorem State.setKey_faultCode : (s.setKey k b).faultCode = s.faultCode := rfl
@[simp] theorem State.setKey_faultPc : (s.setKey k b).faultPc = s.faultPc := rfl
@[simp] theorem State.setKey_faultWord : (s.setKey k b).faultWord = s.faultWord := rfl
@[simp] theorem State.setKey_divider : (s.setKey k b).divider = s.divider := rfl
@[simp] theorem State.setKey_rndIn : (s.setKey k b).rndIn = s.rndIn := rfl
@[simp] theorem State.setKey_draws : (s.setKey k b).draws = s.draws := rfl

end setKey

section setFault
variable (s : State) (c : FaultCode) (p w : Word)

@[simp] theorem State.setFault_v : (s.setFault c p w).v = s.v := rfl
@[simp] theorem State.setFault_i : (s.setFault c p w).i = s.i := rfl
@[simp] theorem State.setFault_pc : (s.setFault c p w).pc = s.pc := rfl
@[simp] theorem State.setFault_sp : (s.setFault c p w).sp = s.sp := rfl
@[simp] theorem State.setFault_stack : (s.setFault c p w).stack = s.stack := rfl
@[simp] theorem State.setFault_dt : (s.setFault c p w).dt = s.dt := rfl
@[simp] theorem State.setFault_st : (s.setFault c p w).st = s.st := rfl
@[simp] theorem State.setFault_tc : (s.setFault c p w).tc = s.tc := rfl
@[simp] theorem State.setFault_mem : (s.setFault c p w).mem = s.mem := rfl
@[simp] theorem State.setFault_grid : (s.setFault c p w).grid = s.grid := rfl
@[simp] theorem State.setFault_fc : (s.setFault c p w).fc = s.fc := rfl
@[simp] theorem State.setFault_keys : (s.setFault c p w).keys = s.keys := rfl
@[simp] theorem State.setFault_faultCode : (s.setFault c p w).faultCode = c := rfl
@[simp] theorem State.setFault_faultPc : (s.setFault c p w).faultPc = p := rfl
@[simp] theorem State.setFault_faultWord : (s.setFault c p w).faultWord = w := rfl
@[simp] theorem State.setFault_divider : (s.setFault c p w).divider = s.divider := rfl
@[simp] theorem State.setFault_rndIn : (s.setFault c p w).rndIn = s.rndIn := rfl
@[simp] theorem State.setFault_draws : (s.setFault c p w).draws = s.draws := rfl

end setFault

section setRndIn
variable (s : State) (bs : List Byte)

@[simp] theorem State.setRndIn_v : (s.setRndIn bs).v = s.v := rfl
@[simp] theorem State.setRndIn_i : (s.setRndIn bs).i = s.i := rfl
@[simp] theorem State.setRndIn_pc : (s.setRndIn bs).pc = s.pc := rfl
@[simp] theorem State.setRndIn_sp : (s.setRndIn bs).sp = s.sp := rfl
@[simp] theorem State.setRndIn_stack : (s.setRndIn bs).stack = s.stack := rfl
@[simp] theorem State.setRndIn_dt : (s.setRndIn bs).dt = s.dt := rfl
@[simp] theorem State.setRndIn_st : (s.setRndIn bs).st = s.st := rfl
@[simp] theorem State.setRndIn_tc : (s.setRndIn bs).tc = s.tc := rfl
@[simp] theorem State.setRndIn_mem : (s.setRndIn bs).mem = s.mem := rfl
@[simp] theorem State.setRndIn_grid : (s.setRndIn bs).grid = s.grid := rfl
@[simp] theorem State.setRndIn_fc : (s.setRndIn bs).fc = s.fc := rfl
@[simp] theorem State.setRndIn_keys : (s.setRndIn bs).keys = s.keys := rfl
@[simp] theorem State.setRndIn_faultCode : (s.setRndIn bs).faultCode = s.faultCode := rfl
@[simp] theorem State.setRndIn_faultPc : (s.setRndIn bs).faultPc = s.faultPc := rfl
@[simp] theorem State.setRndIn_faultWord : (s.setRndIn bs).faultWord = s.faultWord := rfl
@[simp] theorem State.setRndIn_divider : (s.setRndIn bs).divider = s.divider := rfl
@[simp] theorem State.setRndIn_rndIn : (s.setRndIn bs).rndIn = bs := rfl
@[simp] theorem State.setRndIn_draws : (s.setRndIn bs).draws = s.draws := rfl

end setRndIn

section pushPc
variable (s : State) (h : s.sp.val < 16)

@[simp] theorem State.pushPc_v : (s.pushPc h).v = s.v := rfl
@[simp] theorem State.pushPc_i : (s.pushPc h).i = s.i := rfl
@[simp] theorem State.pushPc_pc : (s.pushPc h).pc = s.pc := rfl
@[simp] theorem State.pushPc_sp : (s.pushPc h).sp = ⟨s.sp.val + 1, Nat.succ_lt_succ h⟩ := rfl
@[simp] theorem State.pushPc_stack : (s.pushPc h).stack = s.stack.set s.sp.val s.pc h := rfl
@[simp] theorem State.pushPc_dt : (s.pushPc h).dt = s.dt := rfl
@[simp] theorem State.pushPc_st : (s.pushPc h).st = s.st := rfl
@[simp] theorem State.pushPc_tc : (s.pushPc h).tc = s.tc := rfl
@[simp] theorem State.pushPc_mem : (s.pushPc h).mem = s.mem := rfl
@[simp] theorem State.pushPc_grid : (s.pushPc h).grid = s.grid := rfl
@[simp] theorem State.pushPc_fc : (s.pushPc h).fc = s.fc := rfl
@[simp] theorem State.pushPc_keys : (s.pushPc h).keys = s.keys := rfl
@[simp] theorem State.pushPc_faultCode : (s.pushPc h).faultCode = s.faultCode := rfl
@[simp] theorem State.pushPc_faultPc : (s.pushPc h).faultPc = s.faultPc := rfl
@[simp] theorem State.pushPc_faultWord : (s.pushPc h).faultWord = s.faultWord := rfl
@[simp] theorem State.pushPc_divider : (s.pushPc h).divider = s.divider := rfl
@[simp] theorem State.pushPc_rndIn : (s.pushPc h).rndIn = s.rndIn := rfl
@[simp] theorem State.pushPc_draws : (s.pushPc h).draws = s.draws := rfl

end pushPc

section popPc
variable (s : State) (h : 0 < s.sp.val)

@[simp] theorem State.popPc_v : (s.popPc h).v = s.v := rfl
@[simp] theorem State.popPc_i : (s.popPc h).i = s.i := rfl
@[simp] theorem State.popPc_pc : (s.popPc h).pc = s.stack[s.sp.val - 1]'(Nat.sub_one_lt_of_le h (Nat.le_of_lt_succ s.sp.isLt)) := rfl
@[simp] theorem State.popPc_sp : (s.popPc h).sp = ⟨s.sp.val - 1, Nat.lt_of_le_of_lt (Nat.sub_le _ _) s.sp.isLt⟩ := rfl
@[simp] theorem State.popPc_stack : (s.popPc h).stack = s.stack := rfl
@[simp] theorem State.popPc_dt : (s.popPc h).dt = s.dt := rfl
@[simp] theorem State.popPc_st : (s.popPc h).st = s.st := rfl
@[simp] theorem State.popPc_tc : (s.popPc h).tc = s.tc := rfl
@[simp] theorem State.popPc_mem : (s.popPc h).mem = s.mem := rfl
@[simp] theorem State.popPc_grid : (s.popPc h).grid = s.grid := rfl
@[simp] theorem State.popPc_fc : (s.popPc h).fc = s.fc := rfl
@[simp] theorem State.popPc_keys : (s.popPc h).keys = s.keys := rfl
@[simp] theorem State.popPc_faultCode : (s.popPc h).faultCode = s.faultCode := rfl
@[simp] theorem State.popPc_faultPc : (s.popPc h).faultPc = s.faultPc := rfl
@[simp] theorem State.popPc_faultWord : (s.popPc h).faultWord = s.faultWord := rfl
@[simp] theorem State.popPc_divider : (s.popPc h).divider = s.divider := rfl
@[simp] theorem State.popPc_rndIn : (s.popPc h).rndIn = s.rndIn := rfl
@[simp] theorem State.popPc_draws : (s.popPc h).draws = s.draws := rfl

end popPc

section timerTick
variable (s : State)

@[simp] theorem State.timerTick_v : (s.timerTick).v = s.v := rfl
@[simp] theorem State.timerTick_i : (s.timerTick).i = s.i := rfl
@[simp] theorem State.timerTick_pc : (s.timerTick).pc = s.pc := rfl
@[simp] theorem State.timerTick_sp : (s.timerTick).sp = s.sp := rfl
@[simp] theorem State.timerTick_stack : (s.timerTick).stack = s.stack := rfl
@[simp] theorem State.timerTick_dt : (s.timerTick).dt = if s.tickDue then countDown s.dt else s.dt := rfl
@[simp] theorem State.timerTick_st : (s.timerTick).st = if s.tickDue then countDown s.st else s.st := rfl
@[simp] theorem State.timerTick_tc : (s.timerTick).tc = if s.tickDue then s.divider else s.tc - 1 := rfl
@[simp] theorem State.timerTick_mem : (s.timerTick).mem = s.mem := rfl
@[simp] theorem State.timerTick_grid : (s.timerTick).grid = s.grid := rfl
@[simp] theorem State.timerTick_fc : (s.timerTick).fc = s.fc := rfl
@[simp] theorem State.timerTick_keys : (s.timerTick).keys = s.keys := rfl
@[simp] theorem State.timerTick_faultCode : (s.timerTick).faultCode = s.faultCode := rfl
@[simp] theorem State.timerTick_faultPc : (s.timerTick).faultPc = s.faultPc := rfl
@[simp] theorem State.timerTick_faultWord : (s.timerTick).faultWord = s.faultWord := rfl
@[simp] theorem State.timerTick_divider : (s.timerTick).divider = s.divider := rfl
@[simp] theorem State.timerTick_rndIn : (s.timerTick).rndIn = s.rndIn := rfl
@[simp] theorem State.timerTick_draws : (s.timerTick).draws = s.draws := rfl

end timerTick

section takeRandom
variable (s : State)

@[simp] theorem State.takeRandom_v : s.takeRandom.v = s.v := by unfold State.takeRandom; split <;> rfl
@[simp] theorem State.takeRandom_i : s.takeRandom.i = s.i := by unfold State.takeRandom; split <;> rfl
@[simp] theorem State.takeRandom_pc : s.takeRandom.pc = s.pc := by unfold State.takeRandom; split <;> rfl
@[simp] theorem State.takeRandom_sp : s.takeRandom.sp = s.sp := by unfold State.takeRandom; split <;> rfl
@[simp] theorem State.takeRandom_stack : s.takeRandom.stack = s.stack := by unfold State.takeRandom; split <;> rfl
@[simp] theorem State.takeRandom_dt : s.takeRandom.dt = s.dt := by unfold State.takeRandom; split <;> rfl
@[simp] theorem State.takeRandom_st : s.takeRandom.st = s.st := by unfold State.takeRandom; split <;> rfl
@[simp] theorem State.takeRandom_tc : s.takeRandom.tc = s.tc := by unfold State.takeRandom; split <;> rfl
@[simp] theorem State.takeRandom_mem : s.takeRandom.mem = s.mem := by unfold State.takeRandom; split <;> rfl
@[simp] theorem State.takeRandom_grid : s.takeRandom.grid = s.grid := by unfold State.takeRandom; split <;> rfl
@[simp] theorem State.takeRandom_fc : s.takeRandom.fc = s.fc := by unfold State.takeRandom; split <;> rfl
@[simp] theorem State.takeRandom_keys : s.takeRandom.keys = s.keys := by unfold State.takeRandom; split <;> rfl
@[simp] theorem State.takeRandom_faultCode : s.takeRandom.faultCode = s.faultCode := by unfold State.takeRandom; split <;> rfl
@[simp] theorem State.takeRandom_faultPc : s.takeRandom.faultPc = s.faultPc := by unfold State.takeRandom; split <;> rfl
@[simp] theorem State.takeRandom_faultWord : s.takeRandom.faultWord = s.faultWord := by unfold State.takeRandom; split <;> rfl
@[simp] theorem State.takeRandom_divider : s.takeRandom.divider = s.divider := by unfold State.takeRandom; split <;> rfl

theorem State.takeRandom_rndIn : s.takeRandom.rndIn = s.rndIn.tail := by
  unfold State.takeRandom; split <;> simp_all

theorem State.takeRandom_draws :
    s.takeRandom.draws = if s.rndIn = [] then s.draws + 1 else s.draws := by
  unfold State.takeRandom; split <;> simp_all

end takeRandom

section composed
variable (s : State)

@[simp] theorem State.getReg_eq (x : RegIdx) : s.getReg x = s.v[x] := rfl

@[simp] theorem State.advancePc_eq : s.advancePc = s.setPc (s.pc + 2) := rfl

@[simp] theorem State.rewindPc_eq : s.rewindPc = s.setPc (s.pc - 2) := rfl

theorem State.skipIf_eq (c : Bool) : s.skipIf c = s.setPc (if c then s.pc + 2 else s.pc) := by
  cases c <;> rfl

@[simp] theorem State.takeFault_eq (c : FaultCode) (w : Word) :
    s.takeFault c w = s.setFault c (s.pc - 2) w := rfl

@[simp] theorem State.takeUnknown_eq (w : Word) :
    s.takeUnknown w = s.setFault .unknownInstruction (s.pc - 2) w := rfl

@[simp] theorem State.writeByte_eq (a : Nat) (b : Byte) :
    s.writeByte a b = s.setMem (s.mem.store (maskAddr a) b) := rfl

@[simp] theorem State.writeBytes_eq (a : Nat) (bs : List Byte) :
    s.writeBytes a bs = s.setMem (s.mem.storeBytes a bs) := rfl

@[simp] theorem State.setResultFlag_eq (x : RegIdx) (r : Byte) (f : Bool) :
    s.setResultFlag x r f = (s.setReg x r).setReg flagReg (flagByte f) := rfl

@[simp] theorem State.beginStep_eq :
    s.beginStep = ((s.setFc false).timerTick).setPc (s.pc + 2) := rfl

theorem State.readByte_eq (a : Nat) : s.readByte a = s.mem.lookup (a % 4096) := rfl

theorem State.halted_iff : s.halted = true ↔ s.faultCode ≠ .noFault := by
  simp [State.halted]

end composed

end Sys2Proof.Machine
end

