-- ==== Sys2Proof/Laws/Memory.lean ====
section
/-! SUPPORT. The memory's laws: a read after a write, and the canonical form kept
(20_memory.md R39, R43, R44). -/

namespace Sys2Proof.Machine

theorem Memory.lookup_eq_init_of_not_listed {m : Memory} {a : Nat} (h : ∀ c ∈ m, c.1 ≠ a) :
    m.lookup a = Memory.initByte a := by
  induction m with
  | nil => rfl
  | cons c m ih =>
    have hc : c.1 ≠ a := h c (by simp)
    simp only [Memory.lookup, hc, if_false]
    exact ih fun d hd => h d (by simp [hd])

theorem Memory.lookup_insert (m : Memory) (a b : Nat) (v : Byte) :
    (m.insert a v).lookup b = if a = b then v else m.lookup b := by
  induction m with
  | nil => rfl
  | cons c m ih =>
    simp only [Memory.insert]
    split_ifs with h₁ h₂ h₃ h₄ h₅ <;> simp_all [Memory.lookup]

theorem Memory.lookup_erase_other (m : Memory) {a b : Nat} (h : a ≠ b) :
    (m.erase a).lookup b = m.lookup b := by
  induction m with
  | nil => rfl
  | cons c m ih =>
    simp only [Memory.erase]
    split_ifs with h₁
    · have : c.1 ≠ b := fun e => h (h₁ ▸ e)
      simp [Memory.lookup, this]
    · simp [Memory.lookup, ih]

theorem Memory.mem_of_mem_erase {m : Memory} {a : Nat} {c : Host.Cell} (h : c ∈ m.erase a) :
    c ∈ m := by
  induction m with
  | nil => exact h
  | cons d m ih =>
    simp only [Memory.erase] at h
    split_ifs at h with hd
    · exact List.mem_cons_of_mem _ h
    · rcases List.mem_cons.1 h with rfl | h
      · exact List.mem_cons_self
      · exact List.mem_cons_of_mem _ (ih h)

theorem Memory.erase_not_listed {m : Memory} (hm : m.Pairwise (fun c d => c.1 < d.1)) (a : Nat) :
    ∀ c ∈ m.erase a, c.1 ≠ a := by
  induction m with
  | nil => simp [Memory.erase]
  | cons d m ih =>
    obtain ⟨hd, hm⟩ := List.pairwise_cons.1 hm
    intro c hc
    simp only [Memory.erase] at hc
    split_ifs at hc with h
    · have := hd c hc
      omega
    · rcases List.mem_cons.1 hc with rfl | hc
      · exact h
      · exact ih hm c hc

theorem Memory.lookup_erase_same {m : Memory} (hm : m.Pairwise (fun c d => c.1 < d.1)) (a : Nat) :
    (m.erase a).lookup a = Memory.initByte a :=
  Memory.lookup_eq_init_of_not_listed (Memory.erase_not_listed hm a)

theorem Memory.mem_insert {m : Memory} {a : Nat} {b : Byte} {c : Host.Cell}
    (h : c ∈ m.insert a b) : c = (a, b) ∨ c ∈ m := by
  induction m with
  | nil => simpa [Memory.insert] using h
  | cons d m ih =>
    simp only [Memory.insert] at h
    split_ifs at h
    · simpa using h
    · rcases List.mem_cons.1 h with h | h
      · exact .inl h
      · exact .inr (List.mem_cons_of_mem _ h)
    · rcases List.mem_cons.1 h with rfl | h
      · exact .inr List.mem_cons_self
      · exact (ih h).imp_right (List.mem_cons_of_mem _)

theorem Memory.pairwise_erase {m : Memory} (hm : m.Pairwise (fun c d => c.1 < d.1)) (a : Nat) :
    (m.erase a).Pairwise (fun c d => c.1 < d.1) := by
  induction m with
  | nil => exact hm
  | cons d m ih =>
    obtain ⟨hd, hm⟩ := List.pairwise_cons.1 hm
    simp only [Memory.erase]
    split_ifs
    · exact hm
    · exact List.pairwise_cons.2 ⟨fun c hc => hd c (Memory.mem_of_mem_erase hc), ih hm⟩

theorem Memory.pairwise_insert {m : Memory} (hm : m.Pairwise (fun c d => c.1 < d.1)) (a : Nat)
    (b : Byte) : (m.insert a b).Pairwise (fun c d => c.1 < d.1) := by
  induction m with
  | nil => simp [Memory.insert]
  | cons d m ih =>
    obtain ⟨hd, hm'⟩ := List.pairwise_cons.1 hm
    simp only [Memory.insert]
    split_ifs with h₁ h₂
    · refine List.pairwise_cons.2 ⟨fun c hc => ?_, hm⟩
      rcases List.mem_cons.1 hc with rfl | hc
      · exact h₁
      · exact lt_trans h₁ (hd c hc)
    · exact List.pairwise_cons.2 ⟨fun c hc => h₂ ▸ hd c hc, hm'⟩
    · refine List.pairwise_cons.2 ⟨fun c hc => ?_, ih hm'⟩
      rcases Memory.mem_insert hc with rfl | hc
      · show d.1 < a
        omega
      · exact hd c hc

/-- A store keeps the canonical form. -/
theorem Memory.store_wf {m : Memory} (hm : m.wf) {a : Nat} (ha : a < Config.memSize) (b : Byte) :
    (m.store a b).wf := by
  unfold Memory.store
  split_ifs with h
  · exact ⟨Memory.pairwise_erase hm.1 a, fun c hc => hm.2 c (Memory.mem_of_mem_erase hc)⟩
  · refine ⟨Memory.pairwise_insert hm.1 a b, fun c hc => ?_⟩
    rcases Memory.mem_insert hc with rfl | hc
    · exact ⟨ha, h⟩
    · exact hm.2 c hc

/-- A read after a store, at the address stored to and at every other. -/
theorem Memory.lookup_store {m : Memory} (hm : m.wf) (a b : Nat) (v : Byte) :
    (m.store a v).lookup b = if a = b then v else m.lookup b := by
  unfold Memory.store
  split_ifs with h₁ h₂ h₂
  · subst h₂
    rw [Memory.lookup_erase_same hm.1, h₁]
  · exact Memory.lookup_erase_other m h₂
  · subst h₂
    simp [Memory.lookup_insert]
  · simp [Memory.lookup_insert, h₂]

/-- A store leaves every other address alone, in any memory. -/
theorem Memory.lookup_store_other (m : Memory) {a b : Nat} (h : a ≠ b) (v : Byte) :
    (m.store a v).lookup b = m.lookup b := by
  unfold Memory.store
  split_ifs
  · exact Memory.lookup_erase_other m h
  · simp [Memory.lookup_insert, h]

theorem maskAddr_lt (a : Nat) : maskAddr a < Config.memSize := Nat.mod_lt _ (by decide)

/-- Storing bytes keeps the canonical form. -/
theorem Memory.storeBytes_wf {m : Memory} (hm : m.wf) (a : Nat) (bs : List Byte) :
    (m.storeBytes a bs).wf := by
  induction bs generalizing m a with
  | nil => exact hm
  | cons b bs ih => exact ih (Memory.store_wf hm (maskAddr_lt a) b) (a + 1)

/-- Storing bytes leaves every address alone that none of them reaches. -/
theorem Memory.lookup_storeBytes_other (m : Memory) (a c : Nat) (bs : List Byte)
    (h : ∀ k < bs.length, maskAddr (a + k) ≠ c) :
    (m.storeBytes a bs).lookup c = m.lookup c := by
  induction bs generalizing m a with
  | nil => rfl
  | cons b bs ih =>
    have h₀ : maskAddr a ≠ c := h 0 (by simp)
    have hs : ∀ k < bs.length, maskAddr (a + 1 + k) ≠ c := fun k hk => by
      have := h (k + 1) (by simpa using hk)
      rwa [show a + 1 + k = a + (k + 1) by omega]
    simp only [Memory.storeBytes]
    rw [ih _ _ hs, Memory.lookup_store_other _ h₀]

/-- Each of at most 4096 stored bytes is read back at its address. -/
theorem Memory.lookup_storeBytes {m : Memory} (hm : m.wf) (a : Nat) (bs : List Byte)
    (hl : bs.length ≤ Config.memSize) (k : Nat) (hk : k < bs.length) :
    (m.storeBytes a bs).lookup (maskAddr (a + k)) = bs[k] := by
  induction bs generalizing m a k with
  | nil => simp at hk
  | cons b bs ih =>
    simp only [Memory.storeBytes]
    cases k with
    | zero =>
      rw [Memory.lookup_storeBytes_other, Memory.lookup_store hm]
      · simp
      · intro j hj
        simp only [List.length_cons] at hl
        simp only [maskAddr, Config.memSize] at hl ⊢
        omega
    | succ k =>
      have := ih (Memory.store_wf hm (maskAddr_lt a) b) (a + 1) (by simp at hl; omega) k
        (by simpa using hk)
      rw [show a + (k + 1) = a + 1 + k by omega, this]
      rfl

/-- The memory after reset is in canonical form. -/
theorem Memory.reset_wf (d : Nat) : (State.resetWith d).mem.wf := by
  simp [State.resetWith, Memory.wf]

end Sys2Proof.Machine
end

