-- ==== Sys2Proof/Laws/Ops.lean ====
section
/-! SUPPORT. What each shared operation does, said once. -/

namespace Sys2Proof.Machine

section registers
variable (s : State)

/-- A register read after a register write (10_state.md R15). -/
theorem State.setReg_read (x y : RegIdx) (b : Byte) :
    (s.setReg x b).v[y] = if x = y then b else s.v[y] := by
  simp [State.setReg, Vector.getElem_set, Fin.ext_iff]

/-- The registers after a result and its flag are written (44_alu.md R84). -/
theorem State.setResultFlag_read (x y : RegIdx) (r : Byte) (f : Bool) :
    (s.setResultFlag x r f).v[y] =
      if y = 15 then flagByte f else if x = y then r else s.v[y] := by
  rw [State.setResultFlag_eq, State.setReg_read, State.setReg_read]
  simp only [flagReg, eq_comm]

/-- The registers FX65 leaves (45_index_memory.md R102). -/
theorem State.loadedRegs_read (x k : RegIdx) :
    (s.loadedRegs x)[k] = if k ≤ x then s.readByte (s.i.toNat + k.val) else s.v[k] := by
  simp [State.loadedRegs, State.indexAddr]

/-- The bytes FX55 stores (45_index_memory.md R101). -/
theorem State.regPrefix_length (x : RegIdx) : (s.regPrefix x).length = x.val + 1 := by
  simp only [State.regPrefix, List.length_take, Vector.length_toList]
  omega

theorem State.regPrefix_read (x : RegIdx) (k : Nat) (h : k < (s.regPrefix x).length) :
    (s.regPrefix x)[k] = s.v[k]'(by rw [State.regPrefix_length] at h; omega) := by
  simp [State.regPrefix]

end registers

section operands

/-- A register value is a key number iff it is at most 15 (43_skip.md R82). -/
theorem keyOperand_eq_some_iff (b : Byte) (k : KeyIdx) :
    keyOperand b = some k ↔ b.toNat = k.val := by
  unfold keyOperand
  split_ifs with h
  · simp [Fin.ext_iff]
  · simp only [false_iff]
    omega

theorem keyOperand_eq_none_iff (b : Byte) : keyOperand b = none ↔ 15 < b.toNat := by
  unfold keyOperand
  split_ifs with h <;> simp <;> omega

/-- FX29's address does not wrap (45_index_memory.md R99). -/
theorem fontAddr_toNat (d : Byte) : (fontAddr d).toNat = 0x50 + 5 * d.toNat := by
  simp only [fontAddr, BitVec.toNat_ofNat, Config.fontBase]
  omega

/-- BNNN's target does not wrap (42_flow.md R76). -/
theorem offsetTarget_toNat (nnn : Addr12) (b : Byte) :
    (offsetTarget nnn b).toNat = nnn.toNat + b.toNat := by
  simp only [offsetTarget, zext16, widen, BitVec.toNat_add, BitVec.toNat_setWidth]
  omega

theorem zext16_toNat (nnn : Addr12) : (zext16 nnn).toNat = nnn.toNat := by
  simp only [zext16, BitVec.toNat_setWidth]
  omega

theorem widen_toNat (b : Byte) : (widen b).toNat = b.toNat := by
  simp only [widen, BitVec.toNat_setWidth]
  omega

end operands

section keypad
variable (s : State)

/-- No key is down (46_timer_key.md R104). -/
theorem State.lowestKey_eq_none_iff :
    s.lowestKey = none ↔ ∀ k : KeyIdx, s.keys[k] = false := by
  simp [State.lowestKey]

/-- The lowest-numbered key that is down (46_timer_key.md R104). -/
theorem State.lowestKey_eq_some_iff (k : KeyIdx) :
    s.lowestKey = some k ↔ s.keys[k] = true ∧ ∀ j < k, s.keys[j] = false := by
  simp only [State.lowestKey, List.find?_eq_some_iff_getElem]
  constructor
  · rintro ⟨hk, n, hn, rfl, hlow⟩
    refine ⟨by simpa using hk, fun j hj => ?_⟩
    have := hlow j.val (by simpa [Fin.lt_def] using hj)
    simpa using this
  · rintro ⟨hk, hlow⟩
    refine ⟨by simpa using hk, k.val, by simp, by simp, fun j hj => ?_⟩
    have := hlow ⟨j, by omega⟩ hj
    simpa using this

end keypad

section timers

/-- A saturating decrement as a number (40_cycle.md R65). -/
theorem countDown_toNat (b : Byte) : (countDown b).toNat = b.toNat - 1 := by
  unfold countDown
  split_ifs with h
  · simp [h]
  · have : b.toNat ≠ 0 := fun e => h (BitVec.eq_of_toNat_eq (by simpa using e))
    have hb := b.isLt
    rw [BitVec.toNat_sub, show (1 : Byte).toNat = 1 from rfl]
    omega

theorem State.tickDue_iff (s : State) : s.tickDue = true ↔ s.tc ≤ 1 := by
  simp only [State.tickDue, beq_iff_eq]
  omega

end timers

section random
variable (s : State)

/-- A presented byte is the one taken (60_exceptions.md R121). -/
theorem State.nextRandom_presented {b : Byte} {rest : List Byte} (h : s.rndIn = b :: rest) :
    s.nextRandom = b := by
  unfold State.nextRandom
  rw [h]

end random

section memory
variable (s : State)

/-- A byte read after bytes are written, where none of them lands. -/
theorem State.writeBytes_read_other (a c : Nat) (bs : List Byte)
    (h : ∀ k < bs.length, (a + k) % 4096 ≠ c % 4096) :
    (s.writeBytes a bs).readByte c = s.readByte c :=
  Memory.lookup_storeBytes_other _ _ _ _ h

/-- A byte read after bytes are written, where the `k`-th of them landed. -/
theorem State.writeBytes_read (hm : s.mem.wf) (a : Nat) (bs : List Byte)
    (hl : bs.length ≤ 4096) (k : Nat) (hk : k < bs.length) :
    (s.writeBytes a bs).readByte (a + k) = bs[k] :=
  Memory.lookup_storeBytes hm a bs hl k hk

/-- What `withFetchWord` places is what the next step fetches (20_memory.md R40). -/
theorem State.fetch_withFetchWord (hm : s.mem.wf) (nbits w : Nat) :
    (s.withFetchWord nbits w).fetch = tableWord nbits w := by
  have hlt := s.pc.isLt
  have hne : maskAddr (s.pc.toNat + 1) ≠ maskAddr s.pc.toNat := by
    simp only [maskAddr, Config.memSize]
    omega
  have hw := Memory.store_wf hm (maskAddr_lt s.pc.toNat) (highByte (tableWord nbits w))
  simp only [State.fetch, State.withFetchWord, State.readByte, State.writeByte_eq,
    State.setFault_mem, State.setFault_pc, State.setMem_mem, State.setMem_pc]
  rw [Memory.lookup_store_other _ hne, Memory.lookup_store hm, Memory.lookup_store hw]
  simp [joinBytes_bytes]

end memory

section step
variable (s : State)

/-- A halted engine's step (40_cycle.md R63). -/
theorem step_halted (h : s.halted = true) : step s = .next s := by
  simp [step, h]

/-- A step whose word is an instruction (40_cycle.md R62). -/
theorem step_decoded (h : s.halted = false) {i : Instr} (hd : decodeWord s.fetch = .ok i) :
    step s = exec i s.beginStep := by
  simp [step, h, hd]

/-- A step whose word is illegal (40_cycle.md R68). -/
theorem step_unknown (h : s.halted = false) {e : DecodeReject}
    (hd : decodeWord s.fetch = .error e) :
    step s = .next (s.beginStep.takeUnknown s.fetch) := by
  simp [step, h, hd]

/-- Everything a step can do: nothing when halted, else execute what was fetched, else take the
unknown-instruction fault. -/
theorem step_cases {t : State} (h : step s = .next t) :
    (s.halted = true ∧ t = s) ∨
    (s.halted = false ∧ ∃ i, decodeWord s.fetch = .ok i ∧ exec i s.beginStep = .next t) ∨
    (s.halted = false ∧ ∃ e, decodeWord s.fetch = .error e ∧
      t = s.beginStep.takeUnknown s.fetch) := by
  cases hh : s.halted with
  | true =>
    rw [step_halted s hh] at h
    cases h
    exact .inl ⟨rfl, rfl⟩
  | false =>
    cases hd : decodeWord s.fetch with
    | ok i =>
      rw [step_decoded s hh hd] at h
      exact .inr (.inl ⟨rfl, i, rfl, h⟩)
    | error e =>
      rw [step_unknown s hh hd] at h
      cases h
      exact .inr (.inr ⟨rfl, e, rfl, rfl⟩)

end step

end Sys2Proof.Machine
end

