-- ==== Sys2Proof/Laws/Display.lean ====
section
/-! SUPPORT. The draw's loops said once, cell by cell (41_display.md R72). -/

namespace Sys2Proof.Machine

theorem Grid.pixel_outside (g : Grid) {x y : Nat} (h : ¬ (y < 32 ∧ x < 64)) :
    g.pixel x y = false := by
  simp only [Grid.pixel, Config.gridH, Config.gridW, dif_neg h]

/-- A toggle changes one cell of the grid (41_display.md R72). -/
theorem Grid.pixel_toggle (g : Grid) (px py x y : Nat) :
    (g.toggle px py).pixel x y =
      if x = px ∧ y = py ∧ py < 32 ∧ px < 64 then !(g.pixel x y) else g.pixel x y := by
  unfold Grid.toggle
  by_cases hin : py < 32 ∧ px < 64
  · rw [dif_pos hin]
    by_cases hxy : y < 32 ∧ x < 64
    · simp only [Grid.pixel, Config.gridH, Config.gridW, dif_pos hxy]
      by_cases hy : py = y
      · subst hy
        by_cases hx : px = x
        · subst hx
          simp [hin.1, hin.2]
        · simp [hx, Ne.symm hx]
      · simp [hy, Ne.symm hy]
    · rw [Grid.pixel_outside _ hxy, Grid.pixel_outside _ hxy, if_neg]
      rintro ⟨rfl, rfl, h⟩
      exact hxy h
  · rw [dif_neg hin, if_neg]
    exact fun h => hin h.2.2

theorem Grid.pixel_clear (x y : Nat) : Grid.clear.pixel x y = false := by
  unfold Grid.pixel Grid.clear
  split_ifs <;> simp

/-- Two grids that show the same pixels are the same grid. -/
theorem Grid.ext_pixel {g h : Grid} (hp : ∀ x y, x < 64 → y < 32 → g.pixel x y = h.pixel x y) :
    g = h := by
  apply Vector.ext
  intro y hy
  apply Vector.ext
  intro x hx
  have := hp x y hx hy
  simpa [Grid.pixel, hx, hy, Config.gridH, Config.gridW] using this

section columns
variable (b : Byte) (x0 py : Nat)

/-- The bit a sprite row drawn from column `c` on, `k` columns long, has for grid column `x`. -/
def rowBit (k c x : Nat) : Bool :=
  decide (x0 + c ≤ x ∧ x < x0 + c + k ∧ x < 64) && spriteBit b (x - x0)

theorem rowBit_zero (c x : Nat) : rowBit b x0 0 c x = false := by
  simp only [rowBit, Bool.and_eq_false_iff, decide_eq_false_iff_not]
  omega

theorem rowBit_succ (k c x : Nat) (h : x0 + c < 64) :
    rowBit b x0 (k + 1) c x =
      ((decide (x = x0 + c) && spriteBit b c) || rowBit b x0 k (c + 1) x) := by
  unfold rowBit
  by_cases hx : x = x0 + c
  · subst hx
    have h₁ : x0 + c ≤ x0 + c ∧ x0 + c < x0 + c + (k + 1) ∧ x0 + c < 64 := by omega
    simp [h₁]
  · have : (x0 + c ≤ x ∧ x < x0 + c + (k + 1) ∧ x < 64) ↔
        (x0 + (c + 1) ≤ x ∧ x < x0 + (c + 1) + k ∧ x < 64) := by omega
    simp [hx, this]

theorem rowBit_clipped (k c x : Nat) (h : 64 ≤ x0 + c) : rowBit b x0 k c x = false := by
  simp only [rowBit, Bool.and_eq_false_iff, decide_eq_false_iff_not]
  omega

/-- A sprite row: each cell of its line is XORed with the row's bit for it, and no other cell
changes (41_display.md R72). -/
theorem Canvas.drawCols_pixel (hpy : py < 32) (k c : Nat) (d : Canvas) (x y : Nat) :
    (Canvas.drawCols b x0 py k c d).grid.pixel x y =
      (d.grid.pixel x y ^^ (decide (y = py) && rowBit b x0 k c x)) := by
  induction k generalizing c d with
  | zero => simp [Canvas.drawCols, rowBit_zero]
  | succ k ih =>
    simp only [Canvas.drawCols, Config.gridW]
    split_ifs with h
    · simp [rowBit_clipped _ _ _ _ _ h]
    · rw [ih, rowBit_succ _ _ _ _ _ (by omega)]
      have hnot : x = x0 + c → rowBit b x0 k (c + 1) x = false := by
        rintro rfl
        simp only [rowBit, Bool.and_eq_false_iff, decide_eq_false_iff_not]
        omega
      unfold Canvas.drawBit
      by_cases hb : spriteBit b c = true
      · simp only [hb, if_true, Grid.pixel_toggle]
        by_cases hx : x = x0 + c
        · by_cases hy : y = py
          · simp [hx, hy, hpy, show x0 + c < 64 by omega, hx ▸ hnot hx]
          · simp [hy]
        · simp [hx]
      · simp [hb]

/-- A sprite row notes a collision iff one of its set bits in the grid meets a set pixel. -/
theorem Canvas.drawCols_hit (k c : Nat) (d : Canvas) :
    (Canvas.drawCols b x0 py k c d).hit = true ↔
      d.hit = true ∨ ∃ x, rowBit b x0 k c x = true ∧ d.grid.pixel x py = true := by
  induction k generalizing c d with
  | zero => simp [Canvas.drawCols, rowBit_zero]
  | succ k ih =>
    simp only [Canvas.drawCols, Config.gridW]
    split_ifs with h
    · simp [rowBit_clipped _ _ _ _ _ h]
    · rw [ih]
      have hlater : ∀ x, rowBit b x0 k (c + 1) x = true → x ≠ x0 + c := by
        rintro x hx rfl
        simp only [rowBit, Bool.and_eq_true, decide_eq_true_eq] at hx
        omega
      have hgrid : ∀ x, rowBit b x0 k (c + 1) x = true →
          (d.drawBit (spriteBit b c) (x0 + c) py).grid.pixel x py = d.grid.pixel x py := by
        intro x hx
        unfold Canvas.drawBit
        split_ifs
        · simp [Grid.pixel_toggle, hlater x hx]
        · rfl
      have hhit : (d.drawBit (spriteBit b c) (x0 + c) py).hit = true ↔
          d.hit = true ∨ (spriteBit b c = true ∧ d.grid.pixel (x0 + c) py = true) := by
        unfold Canvas.drawBit
        by_cases hb : spriteBit b c = true <;> simp [hb]
      rw [hhit]
      constructor
      · rintro ((hd | ⟨hb, hp⟩) | ⟨x, hx, hp⟩)
        · exact .inl hd
        · exact .inr ⟨x0 + c, by simp [rowBit_succ _ _ _ _ _ (show x0 + c < 64 by omega), hb], hp⟩
        · exact .inr ⟨x, by simp [rowBit_succ _ _ _ _ _ (show x0 + c < 64 by omega), hx],
            hgrid x hx ▸ hp⟩
      · rintro (hd | ⟨x, hx, hp⟩)
        · exact .inl (.inl hd)
        · rw [rowBit_succ _ _ _ _ _ (show x0 + c < 64 by omega)] at hx
          simp only [Bool.or_eq_true, Bool.and_eq_true, decide_eq_true_eq] at hx
          rcases hx with ⟨rfl, hb⟩ | hx
          · exact .inl (.inr ⟨hb, hp⟩)
          · exact .inr ⟨x, hx, (hgrid x hx).trans hp⟩

end columns

section rows
variable (row : Nat → Byte) (x0 y0 : Nat)

/-- The bit a sprite drawn from row `r` on, `k` rows long, has for a cell of the grid. -/
def spriteCell (k r x y : Nat) : Bool :=
  decide (y0 + r ≤ y ∧ y < y0 + r + k ∧ y < 32) && rowBit (row (y - y0)) x0 8 0 x

theorem spriteCell_zero (r x y : Nat) : spriteCell row x0 y0 0 r x y = false := by
  simp only [spriteCell, Bool.and_eq_false_iff, decide_eq_false_iff_not]
  omega

theorem spriteCell_clipped (k r x y : Nat) (h : 32 ≤ y0 + r) :
    spriteCell row x0 y0 k r x y = false := by
  simp only [spriteCell, Bool.and_eq_false_iff, decide_eq_false_iff_not]
  omega

theorem spriteCell_succ (k r x y : Nat) (h : y0 + r < 32) :
    spriteCell row x0 y0 (k + 1) r x y =
      ((decide (y = y0 + r) && rowBit (row r) x0 8 0 x) || spriteCell row x0 y0 k (r + 1) x y) := by
  unfold spriteCell
  by_cases hy : y = y0 + r
  · subst hy
    have h₁ : y0 + r ≤ y0 + r ∧ y0 + r < y0 + r + (k + 1) ∧ y0 + r < 32 := by omega
    simp [h₁]
  · have : (y0 + r ≤ y ∧ y < y0 + r + (k + 1) ∧ y < 32) ↔
        (y0 + (r + 1) ≤ y ∧ y < y0 + (r + 1) + k ∧ y < 32) := by omega
    simp [hy, this]

/-- Cells of a row before the rows still to draw have no bit left. -/
theorem spriteCell_later {k r x y : Nat} (h : spriteCell row x0 y0 k (r + 1) x y = true) :
    y ≠ y0 + r := by
  simp only [spriteCell, Bool.and_eq_true, decide_eq_true_eq] at h
  omega

/-- A sprite: each cell is XORed with the sprite's bit for it (41_display.md R72). -/
theorem Canvas.drawRows_pixel (k r : Nat) (d : Canvas) (x y : Nat) :
    (Canvas.drawRows row x0 y0 k r d).grid.pixel x y =
      (d.grid.pixel x y ^^ spriteCell row x0 y0 k r x y) := by
  induction k generalizing r d with
  | zero => simp [Canvas.drawRows, spriteCell_zero]
  | succ k ih =>
    simp only [Canvas.drawRows, Config.gridH]
    split_ifs with h
    · simp [spriteCell_clipped _ _ _ _ _ _ _ h]
    · rw [ih, Canvas.drawCols_pixel _ _ _ (by omega),
        spriteCell_succ _ _ _ _ _ _ _ (show y0 + r < 32 by omega)]
      by_cases hl : spriteCell row x0 y0 k (r + 1) x y = true
      · simp [hl, spriteCell_later row x0 y0 hl]
      · simp [hl]

/-- A sprite notes a collision iff one of its set bits in the grid meets a set pixel
(41_display.md R72). -/
theorem Canvas.drawRows_hit (k r : Nat) (d : Canvas) :
    (Canvas.drawRows row x0 y0 k r d).hit = true ↔
      d.hit = true ∨
        ∃ x y, spriteCell row x0 y0 k r x y = true ∧ d.grid.pixel x y = true := by
  induction k generalizing r d with
  | zero => simp [Canvas.drawRows, spriteCell_zero]
  | succ k ih =>
    simp only [Canvas.drawRows, Config.gridH]
    split_ifs with h
    · simp [spriteCell_clipped _ _ _ _ _ _ _ h]
    · have hr : y0 + r < 32 := by omega
      rw [ih, Canvas.drawCols_hit]
      have hgrid : ∀ x y, spriteCell row x0 y0 k (r + 1) x y = true →
          (Canvas.drawCols (row r) x0 (y0 + r) 8 0 d).grid.pixel x y = d.grid.pixel x y := by
        intro x y hc
        simp [Canvas.drawCols_pixel _ _ _ hr, spriteCell_later row x0 y0 hc]
      constructor
      · rintro ((hd | ⟨x, hx, hp⟩) | ⟨x, y, hc, hp⟩)
        · exact .inl hd
        · exact .inr ⟨x, y0 + r, by simp [spriteCell_succ _ _ _ _ _ _ _ hr, hx], hp⟩
        · exact .inr ⟨x, y, by simp [spriteCell_succ _ _ _ _ _ _ _ hr, hc], hgrid x y hc ▸ hp⟩
      · rintro (hd | ⟨x, y, hc, hp⟩)
        · exact .inl (.inl hd)
        · rw [spriteCell_succ _ _ _ _ _ _ _ hr] at hc
          simp only [Bool.or_eq_true, Bool.and_eq_true, decide_eq_true_eq] at hc
          rcases hc with ⟨rfl, hx⟩ | hc
          · exact .inl (.inr ⟨x, hx, hp⟩)
          · exact .inr ⟨x, y, hc, (hgrid x y hc).trans hp⟩

end rows

end Sys2Proof.Machine
end

