-- ==== Sys2Proof/Laws/Frames.lean ====
section
/-! SUPPORT. What each update touches: the frame of an instruction is assembled from these. -/

namespace Sys2Proof.Machine

theorem OnlyTouches.mono {P Q : Part → Prop} {s t : State} (h : OnlyTouches P s t)
    (hPQ : ∀ p, P p → Q p) : OnlyTouches Q s t :=
  fun p hp => h p fun hP => hp (hPQ p hP)

theorem Part.Agrees.trans {s t u : State} {p : Part} (h : p.Agrees s t) (h' : p.Agrees t u) :
    p.Agrees s u := by
  cases p <;> exact Eq.trans h' h

theorem OnlyTouches.trans {P Q : Part → Prop} {s t u : State} (h : OnlyTouches P s t)
    (h' : OnlyTouches Q t u) : OnlyTouches (fun p => P p ∨ Q p) s u :=
  fun p hp => (h p fun hP => hp (.inl hP)).trans (h' p fun hQ => hp (.inr hQ))

theorem OnlyTouches.refl (P : Part → Prop) (s : State) : OnlyTouches P s s := by
  intro p _
  cases p <;> rfl

section updates
variable (s : State)

theorem State.setReg_touches (x : RegIdx) (b : Byte) :
    OnlyTouches (fun p => p = .reg x) s (s.setReg x b) := by
  intro p hp
  cases p with
  | reg y =>
    have hne : x ≠ y := fun h => hp (h ▸ rfl)
    simp only [Part.Agrees, State.setReg_read, if_neg hne]
  | _ => rfl

theorem State.setResultFlag_touches (x : RegIdx) (r : Byte) (f : Bool) :
    OnlyTouches (fun p => p = .reg x ∨ p = .reg 15) s (s.setResultFlag x r f) :=
  (State.setReg_touches s x r).trans (State.setReg_touches _ 15 _)

theorem State.setI_touches (w : Word) : OnlyTouches (fun p => p = .addressReg) s (s.setI w) := by
  intro p hp
  cases p with
  | addressReg => exact absurd rfl hp
  | _ => rfl

theorem State.setPc_touches (w : Word) : OnlyTouches (fun p => p = .pc) s (s.setPc w) := by
  intro p hp
  cases p with
  | pc => exact absurd rfl hp
  | _ => rfl

theorem State.skipIf_touches (c : Bool) : OnlyTouches (fun p => p = .pc) s (s.skipIf c) :=
  State.skipIf_eq s c ▸ State.setPc_touches s _

theorem State.setDt_touches (b : Byte) : OnlyTouches (fun p => p = .dt) s (s.setDt b) := by
  intro p hp
  cases p with
  | dt => exact absurd rfl hp
  | _ => rfl

theorem State.setSt_touches (b : Byte) : OnlyTouches (fun p => p = .st) s (s.setSt b) := by
  intro p hp
  cases p with
  | st => exact absurd rfl hp
  | _ => rfl

theorem State.setFc_touches (b : Bool) : OnlyTouches (fun p => p = .frameFlag) s (s.setFc b) := by
  intro p hp
  cases p with
  | frameFlag => exact absurd rfl hp
  | _ => rfl

theorem State.setGrid_touches (g : Grid) :
    OnlyTouches (fun p => ∃ x y, p = .pixel x y) s (s.setGrid g) := by
  intro p hp
  cases p with
  | pixel x y => exact absurd ⟨x, y, rfl⟩ hp
  | _ => rfl

theorem State.setKey_touches (k : KeyIdx) (b : Bool) :
    OnlyTouches (fun p => p = .key k) s (s.setKey k b) := by
  intro p hp
  cases p with
  | key j =>
    have hne : k.val ≠ j.val := fun h => hp (by rw [Fin.ext h])
    simp [Part.Agrees, hne]
  | _ => rfl

theorem State.setFault_touches (c : FaultCode) (a w : Word) :
    OnlyTouches FaultPart s (s.setFault c a w) := by
  intro p hp
  cases p with
  | faultCode => exact absurd (.inl rfl) hp
  | faultPc => exact absurd (.inr (.inl rfl)) hp
  | faultWord => exact absurd (.inr (.inr rfl)) hp
  | _ => rfl

theorem State.pushPc_touches (h : s.sp.val < 16) :
    OnlyTouches (fun p => p = .slot ⟨s.sp.val, h⟩ ∨ p = .sp) s (s.pushPc h) := by
  intro p hp
  cases p with
  | sp => exact absurd (.inr rfl) hp
  | slot j =>
    have hne : s.sp.val ≠ j.val := fun e => hp (.inl (by rw [Part.slot.injEq]; exact Fin.ext e.symm))
    simp [Part.Agrees, hne]
  | _ => rfl

theorem State.popPc_touches (h : 0 < s.sp.val) :
    OnlyTouches (fun p => p = .pc ∨ p = .sp) s (s.popPc h) := by
  intro p hp
  cases p with
  | pc => exact absurd (.inl rfl) hp
  | sp => exact absurd (.inr rfl) hp
  | _ => rfl

theorem State.takeRandom_touches :
    OnlyTouches (fun p => p = .rndIn ∨ p = .draws) s s.takeRandom := by
  intro p hp
  cases p with
  | rndIn => exact absurd (.inl rfl) hp
  | draws => exact absurd (.inr rfl) hp
  | byte a => simp [Part.Agrees, State.readByte]
  | _ => simp [Part.Agrees]

theorem State.writeBytes_touches (a : Nat) (bs : List Byte) :
    OnlyTouches (BytesFrom a bs.length) s (s.writeBytes a bs) := by
  intro p hp
  cases p with
  | byte c =>
    exact State.writeBytes_read_other s a c bs fun k hk e => hp ⟨c, k, rfl, hk, e.symm⟩
  | _ => rfl

theorem State.setRegs_loaded_touches (x : RegIdx) :
    OnlyTouches (fun p => ∃ k : RegIdx, k ≤ x ∧ p = .reg k) s (s.setRegs (s.loadedRegs x)) := by
  have hread : ∀ k : RegIdx, ¬ k ≤ x → (s.loadedRegs x)[k] = s.v[k] := fun k hk => by
    rw [State.loadedRegs_read, if_neg hk]
  revert hread
  generalize s.loadedRegs x = v
  intro hread p hp
  cases p with
  | reg k => exact hread k fun h => hp ⟨k, h, rfl⟩
  | _ => rfl

theorem State.beginStep_touches :
    OnlyTouches (fun p => p = .frameFlag ∨ p = .tc ∨ p = .dt ∨ p = .st ∨ p = .pc) s
      s.beginStep := by
  intro p hp
  cases p with
  | frameFlag => exact absurd (.inl rfl) hp
  | tc => exact absurd (.inr (.inl rfl)) hp
  | dt => exact absurd (.inr (.inr (.inl rfl))) hp
  | st => exact absurd (.inr (.inr (.inr (.inl rfl)))) hp
  | pc => exact absurd (.inr (.inr (.inr (.inr rfl)))) hp
  | _ => rfl

end updates

end Sys2Proof.Machine
end

