-- ==== Sys2Proof/Laws/PerInstr.lean ====
section
/-! SUPPORT. The family Encoding: the word of every instruction is covered by the instruction's own
row of the opcode map (30_encoding.md R53), one lemma per constructor. -/

namespace Sys2Proof.Laws

/-- The encoded word matches the mask and the match of the instruction's row
(30_encoding.md R53). -/
def Encoding.Statement (i : Instr) : Prop := coveredByPattern i.pattern (encode i) = true

theorem coveredByPattern_of_row {w : Word} (r : OpcodeRow) (hr : r ∈ opcodeMap)
    (h : w &&& r.mask = r.value) : coveredByPattern r.pattern w = true :=
  List.any_eq_true.2 ⟨r, hr, by simp [OpcodeRow.covers, h]⟩

section masks
variable (op : BitVec 4) (nnn : Addr12) (nn : Byte) (n : BitVec 4) (x y : RegIdx)

theorem encodeA_masked_F000 : encodeA op nnn &&& 0xF000#16 = encodeA op 0 := by
  apply BitVec.eq_of_getLsbD_eq
  intro k hk
  rw [BitVec.getLsbD_and, encodeA_getLsbD, encodeA_getLsbD]
  interval_cases k <;> simp

theorem encodeXK_masked_F000 : encodeXK op x nn &&& 0xF000#16 = encodeXK op 0 0 := by
  apply BitVec.eq_of_getLsbD_eq
  intro k hk
  rw [BitVec.getLsbD_and, encodeXK_getLsbD, encodeXK_getLsbD]
  interval_cases k <;> simp [regBits]

theorem encodeXK_masked_F0FF : encodeXK op x nn &&& 0xF0FF#16 = encodeXK op 0 nn := by
  apply BitVec.eq_of_getLsbD_eq
  intro k hk
  rw [BitVec.getLsbD_and, encodeXK_getLsbD, encodeXK_getLsbD]
  interval_cases k <;> simp [regBits]

theorem encodeXYN_masked_F000 : encodeXYN op x y n &&& 0xF000#16 = encodeXYN op 0 0 0 := by
  apply BitVec.eq_of_getLsbD_eq
  intro k hk
  rw [BitVec.getLsbD_and, encodeXYN_getLsbD, encodeXYN_getLsbD]
  interval_cases k <;> simp [regBits]

theorem encodeXYN_masked_F00F : encodeXYN op x y n &&& 0xF00F#16 = encodeXYN op 0 0 n := by
  apply BitVec.eq_of_getLsbD_eq
  intro k hk
  rw [BitVec.getLsbD_and, encodeXYN_getLsbD, encodeXYN_getLsbD]
  interval_cases k <;> simp [regBits]

end masks

theorem Encoding.cls : Encoding.Statement .cls :=
  coveredByPattern_of_row ⟨"00E0", 0xFFFF, 0x00E0⟩ (by decide) rfl

theorem Encoding.ret : Encoding.Statement .ret :=
  coveredByPattern_of_row ⟨"00EE", 0xFFFF, 0x00EE⟩ (by decide) rfl

theorem Encoding.jp (nnn : Addr12) : Encoding.Statement (.jp nnn) :=
  coveredByPattern_of_row ⟨"1NNN", 0xF000, 0x1000⟩ (by decide) (encodeA_masked_F000 ..)

theorem Encoding.call (nnn : Addr12) : Encoding.Statement (.call nnn) :=
  coveredByPattern_of_row ⟨"2NNN", 0xF000, 0x2000⟩ (by decide) (encodeA_masked_F000 ..)

theorem Encoding.seImm (x : RegIdx) (nn : Byte) : Encoding.Statement (.seImm x nn) :=
  coveredByPattern_of_row ⟨"3XNN", 0xF000, 0x3000⟩ (by decide) (encodeXK_masked_F000 ..)

theorem Encoding.sneImm (x : RegIdx) (nn : Byte) : Encoding.Statement (.sneImm x nn) :=
  coveredByPattern_of_row ⟨"4XNN", 0xF000, 0x4000⟩ (by decide) (encodeXK_masked_F000 ..)

theorem Encoding.seReg (x y : RegIdx) : Encoding.Statement (.seReg x y) :=
  coveredByPattern_of_row ⟨"5XY0", 0xF00F, 0x5000⟩ (by decide) (encodeXYN_masked_F00F ..)

theorem Encoding.ldImm (x : RegIdx) (nn : Byte) : Encoding.Statement (.ldImm x nn) :=
  coveredByPattern_of_row ⟨"6XNN", 0xF000, 0x6000⟩ (by decide) (encodeXK_masked_F000 ..)

theorem Encoding.addImm (x : RegIdx) (nn : Byte) : Encoding.Statement (.addImm x nn) :=
  coveredByPattern_of_row ⟨"7XNN", 0xF000, 0x7000⟩ (by decide) (encodeXK_masked_F000 ..)

theorem Encoding.ldReg (x y : RegIdx) : Encoding.Statement (.ldReg x y) :=
  coveredByPattern_of_row ⟨"8XY0", 0xF00F, 0x8000⟩ (by decide) (encodeXYN_masked_F00F ..)

theorem Encoding.orReg (x y : RegIdx) : Encoding.Statement (.orReg x y) :=
  coveredByPattern_of_row ⟨"8XY1", 0xF00F, 0x8001⟩ (by decide) (encodeXYN_masked_F00F ..)

theorem Encoding.andReg (x y : RegIdx) : Encoding.Statement (.andReg x y) :=
  coveredByPattern_of_row ⟨"8XY2", 0xF00F, 0x8002⟩ (by decide) (encodeXYN_masked_F00F ..)

theorem Encoding.xorReg (x y : RegIdx) : Encoding.Statement (.xorReg x y) :=
  coveredByPattern_of_row ⟨"8XY3", 0xF00F, 0x8003⟩ (by decide) (encodeXYN_masked_F00F ..)

theorem Encoding.addReg (x y : RegIdx) : Encoding.Statement (.addReg x y) :=
  coveredByPattern_of_row ⟨"8XY4", 0xF00F, 0x8004⟩ (by decide) (encodeXYN_masked_F00F ..)

theorem Encoding.subReg (x y : RegIdx) : Encoding.Statement (.subReg x y) :=
  coveredByPattern_of_row ⟨"8XY5", 0xF00F, 0x8005⟩ (by decide) (encodeXYN_masked_F00F ..)

theorem Encoding.shr (x y : RegIdx) : Encoding.Statement (.shr x y) :=
  coveredByPattern_of_row ⟨"8XY6", 0xF00F, 0x8006⟩ (by decide) (encodeXYN_masked_F00F ..)

theorem Encoding.subn (x y : RegIdx) : Encoding.Statement (.subn x y) :=
  coveredByPattern_of_row ⟨"8XY7", 0xF00F, 0x8007⟩ (by decide) (encodeXYN_masked_F00F ..)

theorem Encoding.shl (x y : RegIdx) : Encoding.Statement (.shl x y) :=
  coveredByPattern_of_row ⟨"8XYE", 0xF00F, 0x800E⟩ (by decide) (encodeXYN_masked_F00F ..)

theorem Encoding.sneReg (x y : RegIdx) : Encoding.Statement (.sneReg x y) :=
  coveredByPattern_of_row ⟨"9XY0", 0xF00F, 0x9000⟩ (by decide) (encodeXYN_masked_F00F ..)

theorem Encoding.ldI (nnn : Addr12) : Encoding.Statement (.ldI nnn) :=
  coveredByPattern_of_row ⟨"ANNN", 0xF000, 0xA000⟩ (by decide) (encodeA_masked_F000 ..)

theorem Encoding.jpV0 (nnn : Addr12) : Encoding.Statement (.jpV0 nnn) :=
  coveredByPattern_of_row ⟨"BNNN", 0xF000, 0xB000⟩ (by decide) (encodeA_masked_F000 ..)

theorem Encoding.rnd (x : RegIdx) (nn : Byte) : Encoding.Statement (.rnd x nn) :=
  coveredByPattern_of_row ⟨"CXNN", 0xF000, 0xC000⟩ (by decide) (encodeXK_masked_F000 ..)

theorem Encoding.drw (x y : RegIdx) (n : BitVec 4) : Encoding.Statement (.drw x y n) :=
  coveredByPattern_of_row ⟨"DXYN", 0xF000, 0xD000⟩ (by decide) (encodeXYN_masked_F000 ..)

theorem Encoding.skp (x : RegIdx) : Encoding.Statement (.skp x) :=
  coveredByPattern_of_row ⟨"EX9E", 0xF0FF, 0xE09E⟩ (by decide) (encodeXK_masked_F0FF ..)

theorem Encoding.sknp (x : RegIdx) : Encoding.Statement (.sknp x) :=
  coveredByPattern_of_row ⟨"EXA1", 0xF0FF, 0xE0A1⟩ (by decide) (encodeXK_masked_F0FF ..)

theorem Encoding.ldVxDt (x : RegIdx) : Encoding.Statement (.ldVxDt x) :=
  coveredByPattern_of_row ⟨"FX07", 0xF0FF, 0xF007⟩ (by decide) (encodeXK_masked_F0FF ..)

theorem Encoding.ldVxK (x : RegIdx) : Encoding.Statement (.ldVxK x) :=
  coveredByPattern_of_row ⟨"FX0A", 0xF0FF, 0xF00A⟩ (by decide) (encodeXK_masked_F0FF ..)

theorem Encoding.ldDtVx (x : RegIdx) : Encoding.Statement (.ldDtVx x) :=
  coveredByPattern_of_row ⟨"FX15", 0xF0FF, 0xF015⟩ (by decide) (encodeXK_masked_F0FF ..)

theorem Encoding.ldStVx (x : RegIdx) : Encoding.Statement (.ldStVx x) :=
  coveredByPattern_of_row ⟨"FX18", 0xF0FF, 0xF018⟩ (by decide) (encodeXK_masked_F0FF ..)

theorem Encoding.addI (x : RegIdx) : Encoding.Statement (.addI x) :=
  coveredByPattern_of_row ⟨"FX1E", 0xF0FF, 0xF01E⟩ (by decide) (encodeXK_masked_F0FF ..)

theorem Encoding.ldF (x : RegIdx) : Encoding.Statement (.ldF x) :=
  coveredByPattern_of_row ⟨"FX29", 0xF0FF, 0xF029⟩ (by decide) (encodeXK_masked_F0FF ..)

theorem Encoding.ldB (x : RegIdx) : Encoding.Statement (.ldB x) :=
  coveredByPattern_of_row ⟨"FX33", 0xF0FF, 0xF033⟩ (by decide) (encodeXK_masked_F0FF ..)

theorem Encoding.stRegs (x : RegIdx) : Encoding.Statement (.stRegs x) :=
  coveredByPattern_of_row ⟨"FX55", 0xF0FF, 0xF055⟩ (by decide) (encodeXK_masked_F0FF ..)

theorem Encoding.ldRegs (x : RegIdx) : Encoding.Statement (.ldRegs x) :=
  coveredByPattern_of_row ⟨"FX65", 0xF0FF, 0xF065⟩ (by decide) (encodeXK_masked_F0FF ..)

end Sys2Proof.Laws
end

