-- ==== Sys2Proof/Tests/Slice0.lean ====
section
/-! SUPPORT. Tests of single steps against 95_test_vectors.md, decode tests from words written out bit
by bit, and for every obligation with hypotheses a witness that meets them. -/

namespace Sys2Proof.Tests
open Sys2Proof.Machine

/-! ## Well-formedness and decoding -/

/-- Illegal words of every class (30_encoding.md R54-R58; vectors C-8, S-7, S-10, A-36). -/
theorem test_wordLegal_refuses_family0_and_5_and_9 :
    wordLegal 0x0000 = false ∧ wordLegal 0x00E1 = false ∧ wordLegal 0x0123 = false ∧
    wordLegal 0x00FF = false ∧ wordLegal 0x5011 = false ∧ wordLegal 0x5121 = false ∧
    wordLegal 0x912F = false ∧ wordLegal 0x9121 = false := by decide

theorem test_wordLegal_refuses_family8_and_E_and_F :
    wordLegal 0x8008 = false ∧ wordLegal 0x800D = false ∧ wordLegal 0x800F = false ∧
    wordLegal 0xE000 = false ∧ wordLegal 0xE19F = false ∧ wordLegal 0xF000 = false ∧
    wordLegal 0xF0FF = false ∧ wordLegal 0xF019 = false := by decide

theorem test_wordLegal_accepts :
    wordLegal 0x00E0 = true ∧ wordLegal 0x800E = true ∧ wordLegal 0xE5A1 = true ∧
    wordLegal 0xFF65 = true := by decide

/-- A byte list that is too short, and the rejections by name (30_encoding.md R55-R58). -/
theorem test_decode_rejects_by_name :
    decodeBytes [0x00] = .error .truncated ∧ decodeWord 0x00E1 = .error (.family0 0x0E1) ∧
    decodeWord 0x5121 = .error (.family5 1) ∧ decodeWord 0x8008 = .error (.family8 8) ∧
    decodeWord 0x912F = .error (.family9 0xF) ∧ decodeWord 0xE000 = .error (.familyE 0) ∧
    decodeWord 0xF019 = .error (.familyF 0x19) := ⟨rfl, rfl, rfl, rfl, rfl, rfl, rfl⟩

/-- Families 0 to 2, formats O and A (30_encoding.md R49, R53). -/
theorem test_decode_families_0_to_2 :
    decodeWord 0b0000_0000_1110_0000 = .ok .cls ∧ decodeWord 0b0000_0000_1110_1110 = .ok .ret ∧
    decodeWord 0b0001_0010_0010_1000 = .ok (.jp 0x228) ∧
    decodeWord 0b0010_1111_1111_1110 = .ok (.call 0xFFE) := ⟨rfl, rfl, rfl, rfl⟩

/-- Families 3 to 7 and 9 (30_encoding.md R53). -/
theorem test_decode_families_3_to_7_and_9 :
    decodeWord 0b0011_0011_0100_0010 = .ok (.seImm 3 0x42) ∧
    decodeWord 0b0100_1111_1000_0001 = .ok (.sneImm 15 0x81) ∧
    decodeWord 0b0101_0001_0010_0000 = .ok (.seReg 1 2) ∧
    decodeWord 0b0110_1010_1111_1111 = .ok (.ldImm 10 0xFF) ∧
    decodeWord 0b0111_0010_0010_0000 = .ok (.addImm 2 0x20) ∧
    decodeWord 0b1001_0001_1111_0000 = .ok (.sneReg 1 15) := ⟨rfl, rfl, rfl, rfl, rfl, rfl⟩

/-- Family 8 (30_encoding.md R53, R56). -/
theorem test_decode_family_8 :
    decodeWord 0b1000_0001_0010_0000 = .ok (.ldReg 1 2) ∧
    decodeWord 0b1000_0001_0010_0001 = .ok (.orReg 1 2) ∧
    decodeWord 0b1000_0001_0010_0010 = .ok (.andReg 1 2) ∧
    decodeWord 0b1000_0001_0010_0011 = .ok (.xorReg 1 2) ∧
    decodeWord 0b1000_1111_0001_0100 = .ok (.addReg 15 1) ∧
    decodeWord 0b1000_0001_1111_0101 = .ok (.subReg 1 15) ∧
    decodeWord 0b1000_0001_0010_0110 = .ok (.shr 1 2) ∧
    decodeWord 0b1000_0001_0010_0111 = .ok (.subn 1 2) ∧
    decodeWord 0b1000_0001_0010_1110 = .ok (.shl 1 2) :=
  ⟨rfl, rfl, rfl, rfl, rfl, rfl, rfl, rfl, rfl⟩

/-- Families A to E (30_encoding.md R53, R57). -/
theorem test_decode_families_A_to_E :
    decodeWord 0b1010_0011_0000_0001 = .ok (.ldI 0x301) ∧
    decodeWord 0b1011_1111_1111_1111 = .ok (.jpV0 0xFFF) ∧
    decodeWord 0b1100_0100_0000_1111 = .ok (.rnd 4 0x0F) ∧
    decodeWord 0b1101_0001_0010_0101 = .ok (.drw 1 2 5) ∧
    decodeWord 0b1110_0101_1001_1110 = .ok (.skp 5) ∧
    decodeWord 0b1110_0101_1010_0001 = .ok (.sknp 5) := ⟨rfl, rfl, rfl, rfl, rfl, rfl⟩

/-- Family F (30_encoding.md R53, R58). -/
theorem test_decode_family_F :
    decodeWord 0b1111_0011_0000_0111 = .ok (.ldVxDt 3) ∧
    decodeWord 0b1111_0101_0000_1010 = .ok (.ldVxK 5) ∧
    decodeWord 0b1111_0001_0001_0101 = .ok (.ldDtVx 1) ∧
    decodeWord 0b1111_0001_0001_1000 = .ok (.ldStVx 1) ∧
    decodeWord 0b1111_0010_0001_1110 = .ok (.addI 2) ∧
    decodeWord 0b1111_1010_0010_1001 = .ok (.ldF 10) ∧
    decodeWord 0b1111_0000_0011_0011 = .ok (.ldB 0) ∧
    decodeWord 0b1111_1111_0101_0101 = .ok (.stRegs 15) ∧
    decodeWord 0b1111_0001_0110_0101 = .ok (.ldRegs 1) :=
  ⟨rfl, rfl, rfl, rfl, rfl, rfl, rfl, rfl, rfl⟩

/-- The opcode table's numbering: a word of the table, and one that is no instruction. -/
theorem test_decodeTableWord :
    decodeTableWord 16 0xD125 = some (.drw 1 2 5) ∧ decodeTableWord 16 0xF0FF = none :=
  ⟨rfl, rfl⟩

/-! ## One step on a small state -/

/-- The vectors' start state: reset with TIMER_DIVIDER = 10 and the registers listed
(95_test_vectors.md, conventions). -/
def start (regs : List (RegIdx × Byte)) : State :=
  regs.foldl (fun s r => s.setReg r.1 r.2) (State.resetWith 10)

/-- The start state with I and some bytes at I. -/
def startI (regs : List (RegIdx × Byte)) (i : Word) (bytes : List Byte) : State :=
  ((start regs).setI i).writeBytes i.toNat bytes

/-- The start state with a pixel set. -/
def State.withPixel (s : State) (x y : Nat) : State := s.setGrid (s.grid.toggle x y)

/-- One step of the word at PC answers a next state that meets the check. -/
def steps (s : State) (w : Nat) (check : State → Bool) : Bool :=
  match step (s.withFetchWord 16 w) with
  | .next t => check t
  | .refused _ => false

/-- Vector D-1. -/
theorem test_cls_clears : steps (State.withPixel (start [(15, 1)]) 63 31) 0x00E0 (fun t =>
    t.grid == Grid.clear && t.fc && t.v[15] == 1 && t.pc == 0x202) = true := by decide +kernel

/-- Vector D-4: clipped at the right edge. -/
theorem test_drw_clips : steps (startI [(1, 62)] 0x300 [0xFF]) 0xD121 (fun t =>
    t.grid.pixel 62 0 && t.grid.pixel 63 0 && !t.grid.pixel 0 0 && !t.grid.pixel 0 1 &&
    t.v[15] == 0 && t.fc) = true := by decide +kernel

/-- Vector D-8: VX = VF is read before VF is cleared. -/
theorem test_drw_reads_vf_first :
    steps (State.withPixel (startI [(15, 3)] 0x300 [0x80]) 3 0) 0xDF01 (fun t =>
      !t.grid.pixel 3 0 && t.v[15] == 1) = true := by decide +kernel

/-- Vector F-6. -/
theorem test_ret_pops : steps
    { start [] with
      pc := 0x300, sp := 2, stack := ((start []).stack.set 0 0x202).set 1 0x30A } 0x00EE
    (fun t => t.pc == 0x30A && t.sp == 1) = true := by decide +kernel

/-- Vector F-5. -/
theorem test_ret_underflows : steps (start []) 0x00EE (fun t =>
    t.faultCode.code == 3 && t.faultPc == 0x200 && t.faultWord == 0x00EE && t.pc == 0x202 &&
    t.sp == 0) = true := by decide +kernel

/-- Vector F-3. -/
theorem test_call_pushes : steps (start []) 0x2400 (fun t =>
    t.stack[0] == 0x202 && t.sp == 1 && t.pc == 0x400) = true := by decide +kernel

/-- Vector F-4. -/
theorem test_call_overflows : steps { start [] with sp := 16 } 0x2400 (fun t =>
    t.faultCode.code == 2 && t.faultPc == 0x200 && t.faultWord == 0x2400 && t.pc == 0x202 &&
    t.sp == 16) = true := by decide +kernel

/-- Vectors F-2, the timer ticking all the same, and F-10. -/
theorem test_jp : steps (start []) 0x1200 (fun t => t.pc == 0x200 && t.tc == 9) = true ∧
    steps (start []) 0x1201 (fun t => t.pc == 0x201) = true := by decide +kernel

/-- Vector F-8: the 16-bit sum is kept. -/
theorem test_jpV0 : steps (start [(0, 0xFF)]) 0xBFFF (fun t => t.pc == 0x10FE) = true := by
  decide +kernel

/-- Vectors S-1 and S-18. -/
theorem test_seImm : steps (start [(3, 0x42)]) 0x3342 (fun t => t.pc == 0x204) = true ∧
    steps { start [] with pc := 0xFFFE } 0x3000 (fun t => t.pc == 0x0002) = true := by
  decide +kernel

/-- Vectors S-3 and S-4. -/
theorem test_sneImm : steps (start [(3, 0x42)]) 0x4342 (fun t => t.pc == 0x202) = true ∧
    steps (start [(3, 0x41)]) 0x4342 (fun t => t.pc == 0x204) = true := by decide +kernel

/-- Vectors S-5 and S-6. -/
theorem test_seReg : steps (start [(1, 7), (2, 7)]) 0x5120 (fun t => t.pc == 0x204) = true ∧
    steps (start [(1, 7), (2, 8)]) 0x5120 (fun t => t.pc == 0x202) = true := by decide +kernel

/-- Vectors S-8 and S-9. -/
theorem test_sneReg : steps (start [(1, 7), (2, 8)]) 0x9120 (fun t => t.pc == 0x204) = true ∧
    steps (start [(1, 7), (2, 7)]) 0x9120 (fun t => t.pc == 0x202) = true := by decide +kernel

/-- Vectors S-11 and S-15. -/
theorem test_skp :
    steps ((start [(5, 0x0A)]).setKey 10 true) 0xE59E (fun t => t.pc == 0x204) = true ∧
    steps (start [(0, 0x10)]) 0xE09E (fun t => t.faultCode.code == 4 && t.faultPc == 0x200 &&
      t.faultWord == 0xE09E && t.pc == 0x202) = true := by decide +kernel

/-- Vectors S-14 and S-16. -/
theorem test_sknp :
    steps ((start [(5, 0x0A)]).setKey 10 true) 0xE5A1 (fun t => t.pc == 0x202) = true ∧
    steps (start [(0, 0xFF)]) 0xE0A1 (fun t => t.faultCode.code == 4) = true := by
  decide +kernel

/-- Vectors A-1, A-2 and A-3. -/
theorem test_ldImm_and_addImm : steps (start []) 0x6AFF (fun t => t.v[10] == 0xFF) = true ∧
    steps (start [(2, 0xF0), (15, 1)]) 0x7220 (fun t => t.v[2] == 0x10 && t.v[15] == 1) = true ∧
    steps (start [(15, 1)]) 0x7FFF (fun t => t.v[15] == 0) = true := by decide +kernel

/-- Vectors A-4 to A-7. -/
theorem test_copy_and_bitwise :
    steps (start [(0, 0x12), (1, 0x33)]) 0x8010 (fun t => t.v[0] == 0x33 && t.v[1] == 0x33) = true ∧
    steps (start [(0, 0x0F), (1, 0xF0), (15, 1)]) 0x8011 (fun t =>
      t.v[0] == 0xFF && t.v[15] == 1) = true ∧
    steps (start [(0, 0x3C), (1, 0x0F)]) 0x8012 (fun t => t.v[0] == 0x0C) = true ∧
    steps (start [(0, 0x3C), (1, 0x0F)]) 0x8013 (fun t => t.v[0] == 0x33) = true := by
  decide +kernel

/-- Vectors A-12 and A-24. -/
theorem test_addReg :
    steps (start [(0, 0xC8), (1, 0x64)]) 0x8014 (fun t => t.v[0] == 0x2C && t.v[15] == 1) = true ∧
    steps (start [(15, 0xFF), (1, 0x02)]) 0x8F14 (fun t => t.v[15] == 1) = true := by
  decide +kernel

/-- Vectors A-16 and A-32. -/
theorem test_subReg :
    steps (start [(0, 5), (1, 7)]) 0x8015 (fun t => t.v[0] == 0xFE && t.v[15] == 0) = true ∧
    steps (start [(1, 2), (15, 5)]) 0x81F5 (fun t => t.v[1] == 0xFD && t.v[15] == 0) = true := by
  decide +kernel

/-- Vectors A-20 and A-28. -/
theorem test_subn :
    steps (start [(0, 3), (1, 5)]) 0x8017 (fun t => t.v[0] == 2 && t.v[15] == 1) = true ∧
    steps (start [(15, 1), (1, 2)]) 0x8F17 (fun t => t.v[15] == 1) = true := by decide +kernel

/-- Vectors A-17 and A-26. -/
theorem test_shr :
    steps (start [(0, 0x81)]) 0x8016 (fun t => t.v[0] == 0x40 && t.v[15] == 1) = true ∧
    steps (start [(15, 3)]) 0x8F16 (fun t => t.v[15] == 1) = true := by decide +kernel

/-- Vectors A-23 and A-27. -/
theorem test_shl :
    steps (start [(0, 0x7F)]) 0x801E (fun t => t.v[0] == 0xFE && t.v[15] == 0) = true ∧
    steps (start [(15, 0x81)]) 0x8F1E (fun t => t.v[15] == 1) = true := by decide +kernel

/-- Vector A-33. -/
theorem test_rnd : steps ((start []).setRndIn [0xB7]) 0xC40F (fun t =>
    t.v[4] == 0x07 && t.rndIn == []) = true := by decide +kernel

/-- Vectors M-1, M-3 and M-6. -/
theorem test_address_register : steps (start []) 0xA300 (fun t => t.i == 0x0300) = true ∧
    steps (startI [(0, 1)] 0xFFFF []) 0xF01E (fun t => t.i == 0) = true ∧
    steps (start [(0, 0x20)]) 0xF029 (fun t => t.i == 0x0F0) = true := by decide +kernel

/-- Vectors M-11 and M-13: the addresses are reduced mod 4096, I is not. -/
theorem test_ldB : steps (startI [(0, 255)] 0x300 []) 0xF033 (fun t =>
      t.readByte 0x300 == 2 && t.readByte 0x301 == 5 && t.readByte 0x302 == 5) = true ∧
    steps (startI [(0, 123)] 0x1FFF []) 0xF033 (fun t =>
      t.readByte 0xFFF == 1 && t.readByte 0 == 2 && t.readByte 1 == 3 && t.i == 0x1FFF) = true := by
  decide +kernel

/-- Vectors M-14, and M-18's first step. -/
theorem test_stRegs : steps (startI [(0, 0xAA), (1, 0xBB)] 0x400 []) 0xF055 (fun t =>
      t.readByte 0x400 == 0xAA && t.readByte 0x401 == 0 && t.i == 0x400) = true ∧
    steps (startI [(0, 0x12)] 0x202 []) 0xF055 (fun t =>
      t.readByte 0x202 == 0x12 && t.fetch == 0x1200) = true := by decide +kernel

/-- Vectors M-16 (its ends) and M-17. -/
theorem test_ldRegs : steps (startI [] 0x400
      [0x10, 0x11, 0x12, 0x13, 0x14, 0x15, 0x16, 0x17, 0x18, 0x19, 0x1A, 0x1B, 0x1C, 0x1D, 0x1E,
       0x1F]) 0xFF65 (fun t => t.v[0] == 0x10 && t.v[15] == 0x1F && t.i == 0x400) = true ∧
    steps (startI [] 0xFFF [0x12, 0x34]) 0xF165 (fun t =>
      t.v[0] == 0x12 && t.v[1] == 0x34 && t.v[2] == 0) = true := by decide +kernel

/-- Vectors T-1 and T-2: the tick comes before the read. -/
theorem test_ldVxDt :
    steps { start [] with dt := 0x3C, tc := 5 } 0xF307 (fun t =>
      t.tc == 4 && t.v[3] == 0x3C) = true ∧
    steps { start [] with dt := 0x3C, tc := 1 } 0xF307 (fun t =>
      t.tc == 10 && t.dt == 0x3B && t.v[3] == 0x3B) = true := by decide +kernel

/-- Vectors T-3 and T-4. -/
theorem test_timer_writes : steps (start [(1, 0x10)]) 0xF115 (fun t => t.dt == 0x10) = true ∧
    steps (start [(1, 0x10)]) 0xF118 (fun t => t.st == 0x10 && t.toneOn) = true := by
  decide +kernel

/-- Vectors T-8 and T-9. -/
theorem test_ldVxK :
    steps (start []) 0xF50A (fun t => t.pc == 0x200 && t.v[5] == 0 && !t.fc && t.tc == 9) = true ∧
    steps (((start []).setKey 7 true).setKey 9 true) 0xF50A (fun t =>
      t.v[5] == 7 && t.pc == 0x202) = true := by decide +kernel

/-- Vector L1-6: an unknown instruction. -/
theorem test_unknown : steps (start []) 0x5011 (fun t =>
    t.faultCode.code == 1 && t.faultPc == 0x200 && t.faultWord == 0x5011 && t.halted &&
    t.pc == 0x202 && t.tc == 9) = true := by decide +kernel

/-- Vector C-9: a load into a halted engine is taken and the engine stays halted. -/
theorem test_load_halted :
    (Txn.apply ((start []).setFault .stackOverflow 0 0) (.load [0x60, 0x00])).2 = .loaded ∧
    (Txn.apply ((start []).setFault .stackOverflow 0 0) (.load [0x60, 0x00])).1.halted = true := by
  decide +kernel

/-- The glyphs of 0 and A stand where 20_memory.md R37 puts them. -/
theorem test_font : State.reset.readByte 0x050 = 0xF0 ∧ State.reset.readByte 0x051 = 0x90 ∧
    State.reset.readByte 0x082 = 0xF0 ∧ State.reset.readByte 0x09F = 0x80 ∧
    State.reset.readByte 0x0A0 = 0 ∧ State.reset.readByte 0x04F = 0 := by decide +kernel

/-- The host's question: the opcode table's word runs as the first instruction after reset. -/
theorem test_runs_first : ∃ t, step (State.reset.withFetchWord 16 0xD125) = .next t ∧
    t.fc = true ∧ t.faultCode = .noFault := ⟨_, rfl, rfl, rfl⟩

/-! ## Witnesses: states and operands that meet the hypotheses of each obligation -/

/-- A running state with the word at PC. -/
def at_ (s : State) (w : Nat) : State := s.withFetchWord 16 w

/-- One instruction of every constructor. -/
def everyInstr : List Instr :=
  [.cls, .ret, .jp 0x228, .call 0x400, .seImm 3 0x42, .sneImm 3 0x42, .seReg 1 2, .ldImm 10 0xFF,
   .addImm 2 0x20, .ldReg 0 1, .orReg 0 1, .andReg 0 1, .xorReg 0 1, .addReg 15 1, .subReg 0 1,
   .shr 0 1, .subn 0 1] ++
  [.shl 0 1, .sneReg 1 2, .ldI 0x300, .jpV0 0x300, .rnd 4 0x0F, .drw 1 2 5, .skp 5, .sknp 5,
   .ldVxDt 3, .ldVxK 5, .ldDtVx 1, .ldStVx 1, .addI 2, .ldF 10, .ldB 0, .stRegs 15, .ldRegs 15]

/-- InstructionsWriteOnlyWhatTheTableLists, UnreadRegistersDoNotMatter,
NoInstructionReadsSoundTimerOrDivider: every instruction answers a next state. -/
theorem witness_exec_answers : ∀ i ∈ everyInstr, ∃ t, exec i (start []) = .next t := by
  intro i hi
  fin_cases hi <;> exact ⟨_, rfl⟩

/-- UnreadRegistersDoNotMatter: registers that are not read, at both ends of FX55's range and VF of an
8XY4 that only writes it. -/
theorem witness_UnreadRegisters : ¬ ReadsRegister (.stRegs 14) 15 ∧ ¬ ReadsRegister (.shr 0 1) 1 ∧
    ¬ ReadsRegister (.addReg 0 1) 15 ∧ ¬ ReadsRegister (.jpV0 0x300) 1 := by
  simp only [ReadsRegister]; decide

/-- OnlyThreeInstructionsReadKeys. -/
theorem witness_OnlyThreeInstructionsReadKeys :
    (∀ x, Instr.ldVxDt 3 ≠ .skp x ∧ Instr.ldVxDt 3 ≠ .sknp x ∧ Instr.ldVxDt 3 ≠ .ldVxK x) ∧
    ∃ t, exec (.ldVxDt 3) (start []) = .next t := ⟨by decide, _, rfl⟩

/-- EncodeOfDecodeIsTheWord. -/
theorem witness_EncodeOfDecode : decodeWord 0xD125 = .ok (.drw 1 2 5) := rfl

/-- StepRunsTheDecodedInstruction, with the tick that reaches zero and with one that does not. -/
theorem witness_StepRuns :
    (at_ (start []) 0x1228).faultCode = .noFault ∧
    decodeBytes [(at_ (start []) 0x1228).readByte (at_ (start []) 0x1228).pc.toNat,
      (at_ (start []) 0x1228).readByte ((at_ (start []) 0x1228).pc.toNat + 1)] =
      .ok (.jp 0x228, []) ∧
    (at_ { start [] with tc := 1, dt := 5 } 0x1228).tc - 1 = 0 ∧
    (at_ (start []) 0x1228).tc - 1 ≠ 0 := ⟨rfl, rfl, rfl, by decide⟩

/-- The state of vector C-1, halted by the word 0x0000. -/
def halted : State := (start []).beginStep.takeUnknown 0x0000

/-- HaltedEngineStaysHalted. -/
theorem witness_Halted : halted.faultCode ≠ .noFault ∧ (Txn.load [] : Txn) ≠ .reset := by decide

/-- IllegalWordTakesUnknownInstruction, FaultEntryIsPrecise, FaultsExactlyAsTheTableSays,
FrameFlagIffClearOrDraw: a fault of each kind, from a running state. -/
theorem witness_faults :
    (start []).faultCode = .noFault ∧ wordLegal (start []).fetch = false ∧
    (∃ t, step (start []) = .next t ∧ t.faultCode.code = 1) ∧
    (∃ t, step (at_ { start [] with sp := 16 } 0x2400) = .next t ∧ t.faultCode.code = 2) ∧
    (∃ t, step (at_ (start []) 0x00EE) = .next t ∧ t.faultCode.code = 3) ∧
    (∃ t, step (at_ (start [(0, 0x10)]) 0xE09E) = .next t ∧ t.faultCode.code = 4) ∧
    (∃ t, step (at_ (start [(0, 0xFF)]) 0xE0A1) = .next t ∧ t.faultCode.code = 4) :=
  ⟨rfl, by decide +kernel, ⟨_, rfl, rfl⟩, ⟨_, rfl, rfl⟩, ⟨_, rfl, rfl⟩, ⟨_, rfl, rfl⟩,
   ⟨_, rfl, rfl⟩⟩

/-- FrameFlagIffClearOrDraw: a step with FC = 1 and a step with FC = 0, neither of them faulting. -/
theorem witness_FrameFlag :
    (∃ t, step (at_ (start []) 0x00E0) = .next t ∧ t.fc = true) ∧
    (∃ t, step (at_ (start []) 0xD010) = .next t ∧ t.fc = true) ∧
    (∃ t, step (at_ ((start []).setFc true) 0x6000) = .next t ∧ t.fc = false) :=
  ⟨⟨_, rfl, rfl⟩, ⟨_, rfl, rfl⟩, ⟨_, rfl, rfl⟩⟩

/-- The self-jump with TIMER_DIVIDER = 2 and DT = 5. -/
def spinning : State := at_ { State.resetWith 2 with dt := 5, st := 1 } 0x1200

/-- TimersDecrementOncePerDivider: three steps, one of them with a tick that reaches zero. -/
theorem witness_TimersDecrement : 1 ≤ spinning.divider ∧ spinning.tc = spinning.divider ∧
    ∃ t, RunsWithoutTimerWrites 3 spinning t := by
  refine ⟨by decide, rfl, _, rfl, ?_, _, rfl, rfl, ?_, _, rfl, rfl, ?_, _, rfl, rfl⟩ <;>
    exact fun x => ⟨fun h => (by cases h), fun h => (by cases h)⟩

/-- WhoMayChangeKeysMemoryGridStackAndI: a step that changes each of the parts. -/
theorem witness_WhoMayChange :
    (∃ t, step (at_ (startI [(0, 255)] 0x300 []) 0xF033) = .next t ∧ t.readByte 0x300 = 2) ∧
    (∃ t, step (at_ (startI [(0, 255)] 0x300 []) 0xF055) = .next t ∧ t.readByte 0x300 = 255) ∧
    (∃ t, step (at_ (startI [] 0x050 []) 0xD015) = .next t ∧ t.grid.pixel 0 0 = true) ∧
    (∃ t, step (at_ (start []) 0x2400) = .next t ∧ t.stack[0] = 0x202) ∧
    (∃ t, step (at_ (start []) 0xA300) = .next t ∧ t.i = 0x300) ∧
    (∃ t, step (at_ (start [(0, 1)]) 0xF01E) = .next t ∧ t.i = 1) ∧
    (∃ t, step (at_ (start [(0, 1)]) 0xF029) = .next t ∧ t.i = 0x055) := by
  refine ⟨⟨_, rfl, ?_⟩, ⟨_, rfl, ?_⟩, ⟨_, rfl, ?_⟩, ⟨_, rfl, ?_⟩, ⟨_, rfl, ?_⟩, ⟨_, rfl, ?_⟩,
    ⟨_, rfl, ?_⟩⟩ <;> decide +kernel

/-- ResetValues: both ways to a reset state, the second from a halted engine. -/
theorem witness_ResetValues : State.reset = State.reset ∧
    halted.hostReset = (Txn.apply halted .reset).1 := ⟨rfl, rfl⟩

/-- The invariant holds in the vectors' start state with TIMER_DIVIDER = 1. -/
theorem witness_Inv_running : (State.resetWith 1).Inv where
  memCanonical := by decide
  tcPositive := by decide
  tcBounded := by decide
  runningRecord := fun _ => ⟨rfl, rfl⟩
  haltedRecord := fun h => absurd rfl h
  unknownRecord := fun h => (by cases h)
  overflowRecord := fun h => (by cases h)
  underflowRecord := fun h => (by cases h)
  keyRecord := fun h => (by cases h)

/-- The invariant holds in a halted state, with a byte of memory listed. -/
theorem witness_Inv_halted : (halted.writeByte 0x300 7).Inv where
  memCanonical := by decide
  tcPositive := by decide
  tcBounded := by decide
  runningRecord := fun h => (by cases h)
  haltedRecord := fun _ => ⟨rfl, rfl⟩
  unknownRecord := fun _ => by decide
  overflowRecord := fun h => (by cases h)
  underflowRecord := fun h => (by cases h)
  keyRecord := fun h => (by cases h)

/-- EveryStepKeepsTheInvariant. -/
theorem witness_InvStep : ∃ s t : State, s.Inv ∧ step s = .next t :=
  ⟨State.resetWith 1, _, witness_Inv_running, rfl⟩

/-- EveryTransactionKeepsTheInvariant, running and halted. -/
theorem witness_InvTransaction : (∃ s : State, s.Inv ∧ s.halted = false) ∧
    ∃ s : State, s.Inv ∧ s.halted = true :=
  ⟨⟨_, witness_Inv_running, rfl⟩, ⟨_, witness_Inv_halted, rfl⟩⟩

/-- LoadCopiesOrRefusesAll: the longest load and the shortest one that is too long (C-4, C-5). -/
theorem witness_Load : (start []).mem.wf ∧
    (List.replicate 3584 (1 : Byte)).length ≤ 3584 ∧ 3584 < (List.replicate 3585 (1 : Byte)).length :=
  ⟨by decide, by rw [List.length_replicate], by rw [List.length_replicate]; decide⟩

/-- OnlyRndTakesOneRandomByte: a CXNN with a byte presented, one without, and another instruction. -/
theorem witness_OnlyRnd :
    (at_ ((start []).setRndIn [0xB7, 0xAB]) 0xC40F).rndIn = 0xB7 :: [0xAB] ∧
    decodeWord (at_ ((start []).setRndIn [0xB7, 0xAB]) 0xC40F).fetch = .ok (.rnd 4 0x0F) ∧
    (∃ t, step (at_ ((start []).setRndIn [0xB7, 0xAB]) 0xC40F) = .next t) ∧
    (at_ (start []) 0xC40F).rndIn = [] ∧
    (at_ (start []) 0xC40F).faultCode = .noFault ∧
    decodeWord (at_ (start []) 0xC40F).fetch = .ok (.rnd 4 0x0F) ∧
    (∃ t, step (at_ (start []) 0xC40F) = .next t) ∧
    (∀ x nn, decodeWord (at_ (start []) 0x1200).fetch ≠ .ok (.rnd x nn)) :=
  ⟨rfl, rfl, ⟨_, rfl⟩, rfl, rfl, rfl, ⟨_, rfl⟩, fun _ _ h => (by cases h)⟩

/-- StepTransactionFeedsRnd: a CXNN in a running engine. -/
theorem witness_StepTransaction : (at_ (start []) 0xC40F).faultCode = .noFault ∧
    decodeWord (at_ (start []) 0xC40F).fetch = .ok (.rnd 4 0x0F) := ⟨rfl, rfl⟩

/-- Rows C-1 and C-2 of the vectors, through the Step transaction: the fault code of the step that
faults is its reply, and so it is of the next one; other words reply 0. -/
theorem test_step_transaction_replies :
    (Txn.apply (start []) (.step 0)).2 = .stepped 1 ∧
    Txn.apply halted (.step 0) = (halted, .stepped 1) ∧
    (Txn.apply (at_ { start [] with sp := 16 } 0x2400) (.step 0)).2 = .stepped 2 ∧
    (Txn.apply (at_ (start []) 0x1228) (.step 0)).2 = .stepped 0 ∧
    (Txn.apply (at_ (start []) 0x1228) (.step 0)).1.pc = 0x228 := ⟨rfl, rfl, rfl, rfl, rfl⟩

/-- CanonicalMemoriesThatReadAlikeAreEqual: two orders of storing. -/
theorem witness_CanonicalMemories :
    Memory.wf (Memory.store (Memory.store [] 0x300 7) 0xFFF 9) ∧
    Memory.wf (Memory.store (Memory.store [] 0xFFF 9) 0x300 7) ∧
    ∀ a < 4096, Memory.lookup (Memory.store (Memory.store [] 0x300 7) 0xFFF 9) a =
      Memory.lookup (Memory.store (Memory.store [] 0xFFF 9) 0x300 7) a :=
  ⟨by decide, by decide, fun _ _ => rfl⟩

/-- AddressesAreReducedModulo4096: each of the four, with I above 4095. -/
theorem witness_AddressesAreReduced : ((start []).setI 0x1FFF).i.toNat > 4095 ∧
    (∃ t, exec (.drw 0 1 15) ((start []).setI 0x1FFF) = .next t) ∧
    (∃ t, exec (.ldB 0) ((start []).setI 0x1FFF) = .next t) ∧
    (∃ t, exec (.stRegs 15) ((start []).setI 0x1FFF) = .next t) ∧
    (∃ t, exec (.ldRegs 15) ((start []).setI 0x1FFF) = .next t) :=
  ⟨by decide, ⟨_, rfl⟩, ⟨_, rfl⟩, ⟨_, rfl⟩, ⟨_, rfl⟩⟩

/-- The state whose next instruction lies across the top of memory, I such that V14 and V15 of an FX55
reach its two bytes. -/
def acrossTop : State := { start [(14, 0x12), (15, 0x34)] with pc := 0xFFF, i := 0xFF1 }

/-- StoredWordIsFetchedNext: FX55 to both bytes, and vector M-18, FX55 to the first byte only. -/
theorem witness_StoredWord_stRegs : acrossTop.mem.wf ∧
    (∃ t, exec (.stRegs 15) acrossTop = .next t) ∧
    acrossTop.pc.toNat % 4096 = (acrossTop.i.toNat + 14) % 4096 ∧
    (acrossTop.pc.toNat + 1) % 4096 = (acrossTop.i.toNat + 15) % 4096 ∧
    (∃ b : Nat → Nat, ∀ k : RegIdx, k ≤ 15 → b k.val = acrossTop.v[k].toNat) ∧
    (∃ t, exec (.stRegs 0) { start [(0, 0x12)] with pc := 0x202, i := 0x202 } = .next t) ∧
    (∀ k < 1, (0x202 + 1) % 4096 ≠ (0x202 + k) % 4096) :=
  ⟨by decide, ⟨_, rfl⟩, by decide, by decide,
   ⟨fun k => (acrossTop.v.toList.getD k 0).toNat, by decide⟩, ⟨_, rfl⟩, by decide⟩

/-- StoredWordIsFetchedNext: FX33 whose last digit is the first byte, and whose first one is the
second. -/
theorem witness_StoredWord_ldB :
    (∃ t, exec (.ldB 0) { start [(0, 123)] with pc := 0x302, i := 0x300 } = .next t) ∧
    (0x302 % 4096 = (0x300 + 2) % 4096 ∧ ∀ k < 3, (0x302 + 1) % 4096 ≠ (0x300 + k) % 4096) ∧
    (∃ t, exec (.ldB 0) { start [(0, 123)] with pc := 0x2FF, i := 0x300 } = .next t) ∧
    ((0x2FF + 1) % 4096 = (0x300 + 0) % 4096 ∧ ∀ k < 3, 0x2FF % 4096 ≠ (0x300 + k) % 4096) :=
  ⟨⟨_, rfl⟩, by decide, ⟨_, rfl⟩, by decide⟩

/-- DrawingTwiceRestoresTheGrid, where the first draw turns a pixel on. -/
theorem witness_DrawingTwice : (0 : RegIdx) ≠ 15 ∧ (1 : RegIdx) ≠ 15 ∧
    ∃ t u, exec (.drw 0 1 5) (startI [] 0x050 []) = .next t ∧ exec (.drw 0 1 5) t = .next u ∧
      t.grid.pixel 0 0 = true := by
  refine ⟨by decide, by decide, _, _, rfl, rfl, ?_⟩
  decide +kernel

/-- DrwXorsTheSpriteAndReportsCollision: a cell that collides, and the corner that is clipped to. -/
theorem witness_Drw : (State.withPixel (startI [(1, 63), (2, 31)] 0x300 [0x80]) 63 31).spriteAt
      63 31 1 63 31 = true ∧
    (State.withPixel (startI [(1, 63), (2, 31)] 0x300 [0x80]) 63 31).grid.pixel 63 31 = true ∧
    (startI [] 0x300 [0xFF]).spriteAt 63 31 1 64 31 = false := by decide +kernel

/-- CallPushesOrOverflows: SP = 0, the last slot, and the full stack. -/
theorem witness_Call : (start []).sp.val = (0 : Fin 16).val ∧
    ({ start [] with sp := 15 } : State).sp.val = (15 : Fin 16).val ∧
    ({ start [] with sp := 16 } : State).sp = 16 := ⟨rfl, rfl, rfl⟩

/-- RetPopsOrUnderflows: SP = 1, the full stack, and SP = 0. -/
theorem witness_Ret : ({ start [] with sp := 1 } : State).sp.val = (0 : Fin 16).val + 1 ∧
    ({ start [] with sp := 16 } : State).sp.val = (15 : Fin 16).val + 1 ∧ (start []).sp = 0 :=
  ⟨rfl, rfl, rfl⟩

/-- CallThenReturnIsBalanced: the last call that fits. -/
theorem witness_CallThenReturn : ({ start [] with sp := 15 } : State).sp.val < 16 ∧
    ∃ t, exec (.call 0x400) { start [] with sp := 15 } = .next t := ⟨by decide, _, rfl⟩

/-- SkipOnImmediate and SkipOnRegisters: equal and unequal, and a low nibble at both ends. -/
theorem witness_Skip : (start [(3, 0x42)]).v[3] = 0x42 ∧ (start [(3, 0x41)]).v[3] ≠ 0x42 ∧
    (start [(1, 7), (2, 7)]).v[1] = (start [(1, 7), (2, 7)]).v[2] ∧
    (start [(1, 7)]).v[1] ≠ (start [(1, 7)]).v[2] ∧
    wordLegal 0x5121 = false ∧ wordLegal 0x512F = false ∧
    wordLegal 0x9121 = false ∧ wordLegal 0x912F = false := by decide

/-- SkipOnKeyOrKeyIndexFault: V0 = 15 with key 15 up and down, and V0 = 16. -/
theorem witness_SkipOnKey : (start [(0, 15)]).v[0].toNat = (15 : KeyIdx).val ∧
    (start [(0, 15)]).keys[15] = false ∧ ((start [(0, 15)]).setKey 15 true).keys[15] = true ∧
    15 < (start [(0, 16)]).v[0].toNat := by decide

/-- AddRegistersThenCarry, SubtractRegistersThenNoBorrow, ShiftsThenShiftedOutBit: X = F and X other
than F, with the carry and the borrow just in and just out. -/
theorem witness_Flags : (14 : RegIdx) ≠ 15 ∧
    (start [(0, 0xFF), (1, 1)]).v[0].toNat + (start [(0, 0xFF), (1, 1)]).v[1].toNat > 255 ∧
    ¬ (start [(0, 0xFE), (1, 1)]).v[0].toNat + (start [(0, 0xFE), (1, 1)]).v[1].toNat > 255 ∧
    (start [(0, 1), (1, 1)]).v[0].toNat ≥ (start [(0, 1), (1, 1)]).v[1].toNat ∧
    ¬ (start [(0, 0), (1, 1)]).v[0].toNat ≥ (start [(0, 0), (1, 1)]).v[1].toNat := by decide

/-- RndMasksARandomByte: a byte presented, and none. -/
theorem witness_Rnd : ((start []).setRndIn [0xB7]).rndIn = 0xB7 :: [] ∧ (start []).rndIn = [] :=
  ⟨rfl, rfl⟩

/-- StoreDecimalDigits, StoreRegisters, StoredRegistersAreLoadedBack: memory in canonical form with
bytes listed, and the store and load completing at the top of memory. -/
theorem witness_Stores : (startI [(0, 123)] 0xFFF [1, 2]).mem.wf ∧
    (∃ t, exec (.ldB 0) (startI [(0, 123)] 0xFFF [1, 2]) = .next t) ∧
    ∃ t u, exec (.stRegs 15) (startI [(0, 123)] 0xFFF [1, 2]) = .next t ∧
      exec (.ldRegs 15) { t with v := Vector.replicate 16 9 } = .next u :=
  ⟨by decide, ⟨_, rfl⟩, _, _, rfl, rfl⟩

/-- StoreRegisters and LoadRegisters: the first and the last register of both ends of X's range. -/
theorem witness_RegisterRange : (0 : RegIdx) ≤ 0 ∧ (15 : RegIdx) ≤ 15 ∧ ¬ (1 : RegIdx) ≤ 0 := by
  decide

/-- TimerTransfers: FX07 in a step whose tick reaches zero, and in one whose tick does not. -/
theorem witness_TimerTransfers :
    (at_ { start [] with dt := 5, tc := 1 } 0xF307).faultCode = .noFault ∧
    decodeWord (at_ { start [] with dt := 5, tc := 1 } 0xF307).fetch = .ok (.ldVxDt 3) ∧
    (at_ { start [] with dt := 5, tc := 1 } 0xF307).tc ≤ 1 ∧
    decodeWord (at_ { start [] with dt := 5, tc := 2 } 0xF307).fetch = .ok (.ldVxDt 3) ∧
    ¬ (at_ { start [] with dt := 5, tc := 2 } 0xF307).tc ≤ 1 :=
  ⟨rfl, rfl, by decide, rfl, by decide⟩

/-- WaitForKeyPolls: no key down, and key 0, 7 or 15 the lowest down. -/
theorem witness_WaitForKey : (at_ (start []) 0xF50A).faultCode = .noFault ∧
    decodeWord (at_ (start []) 0xF50A).fetch = .ok (.ldVxK 5) ∧
    (∀ k : KeyIdx, (at_ (start []) 0xF50A).keys[k] = false) ∧
    (at_ (((start []).setKey 7 true).setKey 9 true) 0xF50A).keys[(7 : KeyIdx)] = true ∧
    (∀ j < (7 : KeyIdx), (at_ (((start []).setKey 7 true).setKey 9 true) 0xF50A).keys[j] = false) ∧
    (at_ ((start []).setKey 0 true) 0xF50A).keys[(0 : KeyIdx)] = true ∧
    (∀ j < (0 : KeyIdx), (at_ ((start []).setKey 0 true) 0xF50A).keys[j] = false) ∧
    (at_ ((start []).setKey 15 true) 0xF50A).keys[(15 : KeyIdx)] = true ∧
    (∀ j < (15 : KeyIdx), (at_ ((start []).setKey 15 true) 0xF50A).keys[j] = false) :=
  ⟨rfl, rfl, by decide, by decide, by decide, by decide, by decide, by decide, by decide⟩

end Sys2Proof.Tests
end

section
/-! SUPPORT. The frame of every instruction (10_state.md R33), put together from the frames of the
updates. -/

namespace Sys2Proof.Machine

section outcomes
variable {s t : State} {x : RegIdx} {nnn : Addr12}

/-! An equation for each outcome of the instructions that have two, and what either can be. -/

theorem exec_ret_pop (hs : 0 < s.sp.val) : exec .ret s = .next (s.popPc hs) := dif_pos hs

theorem exec_ret_underflow (hs : s.sp = 0) :
    exec .ret s = .next (s.takeFault .stackUnderflow (encode .ret)) := dif_neg (by simp [hs])

theorem exec_ret_cases (h : exec .ret s = .next t) :
    (∃ hs, t = s.popPc hs) ∨ (s.sp = 0 ∧ t = s.takeFault .stackUnderflow (encode .ret)) := by
  by_cases hs : 0 < s.sp.val
  · exact .inl ⟨hs, Host.Outcome.next.inj (h.symm.trans (exec_ret_pop hs))⟩
  · have hz : s.sp = 0 := Fin.ext (Nat.eq_zero_of_not_pos hs)
    exact .inr ⟨hz, Host.Outcome.next.inj (h.symm.trans (exec_ret_underflow hz))⟩

theorem exec_call_push (hs : s.sp.val < 16) :
    exec (.call nnn) s = .next ((s.pushPc hs).setPc (zext16 nnn)) := dif_pos hs

theorem exec_call_overflow (hs : s.sp = 16) :
    exec (.call nnn) s = .next (s.takeFault .stackOverflow (encode (.call nnn))) :=
  dif_neg (by simp [hs])

theorem exec_call_cases (h : exec (.call nnn) s = .next t) :
    (∃ hs, t = (s.pushPc hs).setPc (zext16 nnn)) ∨
      (s.sp = 16 ∧ t = s.takeFault .stackOverflow (encode (.call nnn))) := by
  by_cases hs : s.sp.val < 16
  · exact .inl ⟨hs, Host.Outcome.next.inj (h.symm.trans (exec_call_push hs))⟩
  · have hlt := s.sp.isLt
    have hf : s.sp = 16 := Fin.ext (show s.sp.val = 16 by omega)
    exact .inr ⟨hf, Host.Outcome.next.inj (h.symm.trans (exec_call_overflow hf))⟩

theorem exec_skp_key {k : KeyIdx} (hk : s.v[x].toNat = k.val) :
    exec (.skp x) s = .next (s.skipIf s.keys[k]) := by
  simp only [exec, execSkp, State.getReg_eq, (keyOperand_eq_some_iff _ k).2 hk]

theorem exec_skp_fault (hx : 15 < s.v[x].toNat) :
    exec (.skp x) s = .next (s.takeFault .keyIndex (encode (.skp x))) := by
  simp only [exec, execSkp, State.getReg_eq, (keyOperand_eq_none_iff _).2 hx]

theorem exec_skp_cases (h : exec (.skp x) s = .next t) :
    (∃ k : KeyIdx, s.v[x].toNat = k.val ∧ t = s.skipIf s.keys[k]) ∨
      (15 < s.v[x].toNat ∧ t = s.takeFault .keyIndex (encode (.skp x))) := by
  by_cases hx : 15 < s.v[x].toNat
  · exact .inr ⟨hx, Host.Outcome.next.inj (h.symm.trans (exec_skp_fault hx))⟩
  · exact .inl ⟨⟨s.v[x].toNat, by omega⟩, rfl,
      Host.Outcome.next.inj (h.symm.trans (exec_skp_key rfl))⟩

theorem exec_sknp_key {k : KeyIdx} (hk : s.v[x].toNat = k.val) :
    exec (.sknp x) s = .next (s.skipIf (!s.keys[k])) := by
  simp only [exec, execSknp, State.getReg_eq, (keyOperand_eq_some_iff _ k).2 hk]

theorem exec_sknp_fault (hx : 15 < s.v[x].toNat) :
    exec (.sknp x) s = .next (s.takeFault .keyIndex (encode (.sknp x))) := by
  simp only [exec, execSknp, State.getReg_eq, (keyOperand_eq_none_iff _).2 hx]

theorem exec_sknp_cases (h : exec (.sknp x) s = .next t) :
    (∃ k : KeyIdx, s.v[x].toNat = k.val ∧ t = s.skipIf (!s.keys[k])) ∨
      (15 < s.v[x].toNat ∧ t = s.takeFault .keyIndex (encode (.sknp x))) := by
  by_cases hx : 15 < s.v[x].toNat
  · exact .inr ⟨hx, Host.Outcome.next.inj (h.symm.trans (exec_sknp_fault hx))⟩
  · exact .inl ⟨⟨s.v[x].toNat, by omega⟩, rfl,
      Host.Outcome.next.inj (h.symm.trans (exec_sknp_key rfl))⟩

theorem exec_ldVxK_key {k : KeyIdx} (hk : s.lowestKey = some k) :
    exec (.ldVxK x) s = .next (s.setReg x (BitVec.ofNat 8 k.val)) := by
  simp [exec, execLdVxK, hk]

theorem exec_ldVxK_wait (hk : s.lowestKey = none) : exec (.ldVxK x) s = .next s.rewindPc := by
  simp [exec, execLdVxK, hk]

theorem exec_ldVxK_cases (h : exec (.ldVxK x) s = .next t) :
    (∃ k, s.lowestKey = some k ∧ t = s.setReg x (BitVec.ofNat 8 k.val)) ∨
      (s.lowestKey = none ∧ t = s.rewindPc) := by
  cases hk : s.lowestKey with
  | some k => exact .inl ⟨k, rfl, Host.Outcome.next.inj (h.symm.trans (exec_ldVxK_key hk))⟩
  | none => exact .inr ⟨rfl, Host.Outcome.next.inj (h.symm.trans (exec_ldVxK_wait hk))⟩

end outcomes

/-- What FX65 does (45_index_memory.md R102). -/
theorem exec_ldRegs (s : State) (x : RegIdx) :
    exec (.ldRegs x) s = .next (s.setRegs (s.loadedRegs x)) := rfl

theorem exec_ldRegs_eq {s t : State} {x : RegIdx} (h : exec (.ldRegs x) s = .next t) :
    t = s.setRegs (s.loadedRegs x) :=
  (Host.Outcome.next.inj h).symm

/-- Every instruction writes only what the access table lists for it, and a fault record. -/
theorem exec_touches {i : Instr} {s t : State} (h : exec i s = .next t) :
    OnlyTouches (MayWrite i s) s t := by
  cases i with
  | cls =>
    cases h
    exact (State.setGrid_touches s _).trans (State.setFc_touches _ _)
  | ret =>
    rcases exec_ret_cases h with ⟨hs, rfl⟩ | ⟨-, rfl⟩
    · exact (State.popPc_touches s hs).mono fun p hp => hp.imp_right .inl
    · exact (State.setFault_touches s _ _ _).mono fun p hp => .inr (.inr hp)
  | call nnn =>
    rcases exec_call_cases h with ⟨hs, rfl⟩ | ⟨-, rfl⟩
    · refine ((State.pushPc_touches s hs).trans (State.setPc_touches _ _)).mono ?_
      rintro p ((hslot | hsp) | hpc)
      · exact .inl ⟨_, rfl, hslot⟩
      · exact .inr (.inl hsp)
      · exact .inr (.inr (.inl hpc))
    · exact (State.setFault_touches s _ _ _).mono fun p hp => .inr (.inr (.inr hp))
  | jp | jpV0 =>
    cases h
    exact State.setPc_touches s _
  | seImm | sneImm | seReg | sneReg =>
    cases h
    exact State.skipIf_touches s _
  | ldImm | addImm | ldReg | orReg | andReg | xorReg | ldVxDt =>
    cases h
    exact State.setReg_touches s _ _
  | addReg | subReg | shr | subn | shl =>
    cases h
    exact State.setResultFlag_touches s _ _ _
  | ldI | addI | ldF =>
    cases h
    exact State.setI_touches s _
  | rnd x nn =>
    cases h
    exact ((State.takeRandom_touches s).trans (State.setReg_touches _ x _)).mono fun p => Or.symm
  | drw x y n =>
    cases h
    exact (((State.setReg_touches s _ _).trans (State.setGrid_touches _ _)).trans
      (State.setFc_touches _ _)).mono fun p => or_assoc.1
  | skp x =>
    rcases exec_skp_cases h with ⟨k, -, rfl⟩ | ⟨-, rfl⟩
    · exact (State.skipIf_touches s _).mono fun p => .inl
    · exact (State.setFault_touches s _ _ _).mono fun p => .inr
  | sknp x =>
    rcases exec_sknp_cases h with ⟨k, -, rfl⟩ | ⟨-, rfl⟩
    · exact (State.skipIf_touches s _).mono fun p => .inl
    · exact (State.setFault_touches s _ _ _).mono fun p => .inr
  | ldVxK x =>
    rcases exec_ldVxK_cases h with ⟨k, -, rfl⟩ | ⟨-, rfl⟩
    · exact (State.setReg_touches s x _).mono fun p => .inl
    · exact (State.setPc_touches s _).mono fun p => .inr
  | ldDtVx =>
    cases h
    exact State.setDt_touches s _
  | ldStVx =>
    cases h
    exact State.setSt_touches s _
  | ldB x =>
    cases h
    exact State.writeBytes_touches s (s.indexAddr 0) [_, _, _]
  | stRegs x =>
    cases h
    have hw := State.writeBytes_touches s (s.indexAddr 0) (s.regPrefix x)
    rwa [State.regPrefix_length] at hw
  | ldRegs x =>
    rw [exec_ldRegs_eq h]
    exact State.setRegs_loaded_touches s x

/-- Settles O14: the frame of each instruction is that of the updates it makes. -/
theorem instructionsWriteOnlyWhatTheTableLists :
    Obligations.InstructionsWriteOnlyWhatTheTableLists :=
  fun _ _ _ h => exec_touches h

end Sys2Proof.Machine
end

section
/-! SUPPORT. The decoder accepts every word of the opcode map (30_encoding.md R53). -/

namespace Sys2Proof

open Sys2Proof.Laws

section masks
variable {w v : Word}

theorem opField_eq_of_masked_F000 (h : w &&& 0xF000#16 = v) : opField w = opField v := by
  rw [← h, ← encodeA_fields w, encodeA_masked_F000, opField_encodeA, opField_encodeA]

theorem fields_eq_of_masked_F00F (h : w &&& 0xF00F#16 = v) :
    opField w = opField v ∧ nField w = nField v := by
  rw [← h, ← encodeXYN_fields w, encodeXYN_masked_F00F]
  simp

theorem fields_eq_of_masked_F0FF (h : w &&& 0xF0FF#16 = v) :
    opField w = opField v ∧ nnField w = nnField v := by
  rw [← h, ← encodeXK_fields w, encodeXK_masked_F0FF]
  simp

end masks

/-- Does the decoder accept the word (30_encoding.md R59)? -/
def wordDecodes (w : Word) : Bool := (decodeWord w).isOk

/-- The families that need no selector take every word (30_encoding.md R52). -/
theorem wordDecodes_of_plain_family {w : Word}
    (h : opField w ∈ [0x1#4, 0x2#4, 0x3#4, 0x4#4, 0x6#4, 0x7#4, 0xA#4, 0xB#4, 0xC#4, 0xD#4]) :
    wordDecodes w = true := by
  simp only [List.mem_cons, List.not_mem_nil, or_false] at h
  unfold wordDecodes decodeWord
  rcases h with h | h | h | h | h | h | h | h | h | h <;> rw [h] <;> rfl

/-- In families 5, 8 and 9 the selector is N (30_encoding.md R55, R56). -/
theorem wordDecodes_congr_of_nField {w v : Word} (hop : opField w = opField v)
    (hn : nField w = nField v) (h : opField v ∈ [0x5#4, 0x8#4, 0x9#4]) :
    wordDecodes w = wordDecodes v := by
  simp only [List.mem_cons, List.not_mem_nil, or_false] at h
  unfold wordDecodes decodeWord
  rw [hop]
  rcases h with h | h | h <;> rw [h]
  · show (decodeFamily5 w).isOk = (decodeFamily5 v).isOk
    unfold decodeFamily5
    rw [hn]
    split <;> rfl
  · show (decodeFamily8 w).isOk = (decodeFamily8 v).isOk
    unfold decodeFamily8
    rw [hn]
    split <;> rfl
  · show (decodeFamily9 w).isOk = (decodeFamily9 v).isOk
    unfold decodeFamily9
    rw [hn]
    split <;> rfl

/-- In families E and F the selector is NN (30_encoding.md R57, R58). -/
theorem wordDecodes_congr_of_nnField {w v : Word} (hop : opField w = opField v)
    (hnn : nnField w = nnField v) (h : opField v ∈ [0xE#4, 0xF#4]) :
    wordDecodes w = wordDecodes v := by
  simp only [List.mem_cons, List.not_mem_nil, or_false] at h
  unfold wordDecodes decodeWord
  rw [hop]
  rcases h with h | h <;> rw [h]
  · show (decodeFamilyE w).isOk = (decodeFamilyE v).isOk
    unfold decodeFamilyE
    rw [hnn]
    split <;> rfl
  · show (decodeFamilyF w).isOk = (decodeFamilyF v).isOk
    unfold decodeFamilyF
    rw [hnn]
    split <;> rfl

/-- The mask of each row of the opcode map keeps the family and the family's selector, and the
row's own match decodes (30_encoding.md R53). -/
theorem opcodeMap_masks : ∀ r ∈ opcodeMap, wordDecodes r.value = true ∧
    (r.mask = 0xFFFF#16 ∨
      r.mask = 0xF000#16 ∧ opField r.value ∈
        [0x1#4, 0x2#4, 0x3#4, 0x4#4, 0x6#4, 0x7#4, 0xA#4, 0xB#4, 0xC#4, 0xD#4] ∨
      r.mask = 0xF00F#16 ∧ opField r.value ∈ [0x5#4, 0x8#4, 0x9#4] ∨
      r.mask = 0xF0FF#16 ∧ opField r.value ∈ [0xE#4, 0xF#4]) := by
  decide

/-- Every word of the opcode map decodes (30_encoding.md R53). -/
theorem wordDecodes_of_wordLegal {w : Word} (h : wordLegal w = true) : wordDecodes w = true := by
  obtain ⟨r, hr, hc⟩ := List.any_eq_true.1 h
  have hmv : w &&& r.mask = r.value := by simpa [OpcodeRow.covers] using hc
  obtain ⟨hv, hm | ⟨hm, hop⟩ | ⟨hm, hop⟩ | ⟨hm, hop⟩⟩ := opcodeMap_masks r hr <;> rw [hm] at hmv
  · have hwv : w = r.value := by rw [← hmv]; exact BitVec.and_allOnes.symm
    rwa [hwv]
  · exact wordDecodes_of_plain_family (opField_eq_of_masked_F000 hmv ▸ hop)
  · obtain ⟨ho, hn⟩ := fields_eq_of_masked_F00F hmv
    rwa [wordDecodes_congr_of_nField ho hn hop]
  · obtain ⟨ho, hnn⟩ := fields_eq_of_masked_F0FF hmv
    rwa [wordDecodes_congr_of_nnField ho hnn hop]

/-- A word that the decoder rejects is in no row of the opcode map (30_encoding.md R59). -/
theorem wordLegal_eq_false_of_rejected {w : Word} {e : DecodeReject} (h : decodeWord w = .error e) :
    wordLegal w = false := by
  by_contra hl
  have hd := wordDecodes_of_wordLegal (Bool.not_eq_false _ ▸ hl)
  simp [wordDecodes, h, Except.isOk, Except.toBool] at hd

end Sys2Proof
end

section
/-! SUPPORT. The invariant of the machine, kept by each phase of a step. -/

namespace Sys2Proof.Machine

/-- The condition under which an instruction takes a fault, and which (60_exceptions.md R109, R110,
R112). -/
inductive FaultsWith (s : State) : Instr → FaultCode → Prop
  | overflow (nnn : Addr12) (h : s.sp = 16) : FaultsWith s (.call nnn) .stackOverflow
  | underflow (h : s.sp = 0) : FaultsWith s .ret .stackUnderflow
  | skp (x : RegIdx) (h : 15 < s.v[x].toNat) : FaultsWith s (.skp x) .keyIndex
  | sknp (x : RegIdx) (h : 15 < s.v[x].toNat) : FaultsWith s (.sknp x) .keyIndex

/-- The two states hold the same fault record (10_state.md R29). -/
def SameRecord (s t : State) : Prop :=
  t.faultCode = s.faultCode ∧ t.faultPc = s.faultPc ∧ t.faultWord = s.faultWord

theorem OnlyTouches.sameRecord {P : Part → Prop} {s t : State} (h : OnlyTouches P s t)
    (hP : ∀ p, FaultPart p → ¬ P p) : SameRecord s t :=
  ⟨h _ (hP _ (.inl rfl)), h _ (hP _ (.inr (.inl rfl))), h _ (hP _ (.inr (.inr rfl)))⟩

/-- An instruction either leaves the fault record alone or takes its fault with its own word
(60_exceptions.md R107, R111). -/
theorem exec_fault_cases {i : Instr} {s t : State} (h : exec i s = .next t) :
    SameRecord s t ∨ ∃ c, FaultsWith s i c ∧ t = s.takeFault c (encode i) := by
  cases i with
  | ret =>
    rcases exec_ret_cases h with ⟨hs, rfl⟩ | ⟨hs, rfl⟩
    · exact .inl ⟨rfl, rfl, rfl⟩
    · exact .inr ⟨_, .underflow hs, rfl⟩
  | call nnn =>
    rcases exec_call_cases h with ⟨hs, rfl⟩ | ⟨hs, rfl⟩
    · exact .inl ⟨rfl, rfl, rfl⟩
    · exact .inr ⟨_, .overflow nnn hs, rfl⟩
  | skp x =>
    rcases exec_skp_cases h with ⟨k, -, rfl⟩ | ⟨hx, rfl⟩
    · exact .inl (by simp [SameRecord, State.skipIf_eq])
    · exact .inr ⟨_, .skp x hx, rfl⟩
  | sknp x =>
    rcases exec_sknp_cases h with ⟨k, -, rfl⟩ | ⟨hx, rfl⟩
    · exact .inl (by simp [SameRecord, State.skipIf_eq])
    · exact .inr ⟨_, .sknp x hx, rfl⟩
  | _ =>
    refine .inl ((exec_touches h).sameRecord fun p hp => ?_)
    rcases hp with rfl | rfl | rfl <;> simp [MayWrite, BytesFrom]

/-- Every instruction keeps the memory canonical. -/
theorem exec_mem_wf {i : Instr} {s t : State} (hm : s.mem.wf) (h : exec i s = .next t) :
    t.mem.wf := by
  cases i with
  | ldB | stRegs =>
    cases h
    exact Memory.storeBytes_wf hm _ _
  | ret => rcases exec_ret_cases h with ⟨hs, rfl⟩ | ⟨-, rfl⟩ <;> exact hm
  | call nnn => rcases exec_call_cases h with ⟨hs, rfl⟩ | ⟨-, rfl⟩ <;> exact hm
  | skp x =>
    rcases exec_skp_cases h with ⟨k, -, rfl⟩ | ⟨-, rfl⟩
    · simpa [State.skipIf_eq] using hm
    · exact hm
  | sknp x =>
    rcases exec_sknp_cases h with ⟨k, -, rfl⟩ | ⟨-, rfl⟩
    · simpa [State.skipIf_eq] using hm
    · exact hm
  | ldVxK x => rcases exec_ldVxK_cases h with ⟨k, -, rfl⟩ | ⟨-, rfl⟩ <;> exact hm
  | ldRegs x =>
    rw [exec_ldRegs_eq h, State.setRegs_mem]
    exact hm
  | _ =>
    cases h
    simpa [State.skipIf_eq] using hm

/-- No instruction writes TC (10_state.md R24). -/
theorem exec_tc {i : Instr} {s t : State} (h : exec i s = .next t) : t.tc = s.tc :=
  exec_touches h .tc (by cases i <;> simp [MayWrite, FaultPart, BytesFrom])

/-- No instruction writes the parameter TIMER_DIVIDER (10_state.md R31). -/
theorem exec_divider {i : Instr} {s t : State} (h : exec i s = .next t) : t.divider = s.divider :=
  exec_touches h .divider (by cases i <;> simp [MayWrite, FaultPart, BytesFrom])

/-- What the invariant says of the word of a fault taken in the state `s`
(60_exceptions.md R108-R110, R112). -/
def FaultExplained (s : State) (w : Word) : FaultCode → Prop
  | .noFault => False
  | .unknownInstruction => wordLegal w = false
  | .stackOverflow => s.sp = 16 ∧ ∃ nnn, decodeWord w = .ok (.call nnn)
  | .stackUnderflow => s.sp = 0 ∧ w = 0x00EE
  | .keyIndex =>
    ∃ x : RegIdx, 15 < s.v[x].toNat ∧ (decodeWord w = .ok (.skp x) ∨ decodeWord w = .ok (.sknp x))

/-- The fault an instruction takes with its own word is explained by that word. -/
theorem FaultsWith.explained {s : State} {i : Instr} {c : FaultCode} (h : FaultsWith s i c) :
    FaultExplained s (encode i) c := by
  cases h with
  | overflow nnn hs => exact ⟨hs, nnn, by simp [encode, decodeWord]⟩
  | underflow hs => exact ⟨hs, rfl⟩
  | skp x hx => exact ⟨x, hx, .inl (by simp [encode, decodeWord, decodeFamilyE])⟩
  | sknp x hx => exact ⟨x, hx, .inr (by simp [encode, decodeWord, decodeFamilyE])⟩

section keeps
variable {s t : State}

/-- The phases before execution keep the invariant (40_cycle.md R65). -/
theorem State.Inv.beginStep (hs : s.Inv) (hrun : s.faultCode = .noFault) : s.beginStep.Inv where
  memCanonical := hs.memCanonical
  tcPositive := by
    have hpos := hs.tcPositive
    have hle := hs.tcBounded
    simp only [State.beginStep_eq, State.setPc_tc, State.timerTick_tc, State.tickDue_iff,
      State.setFc_tc, State.setFc_divider]
    split <;> omega
  tcBounded := by
    have hle := hs.tcBounded
    simp only [State.beginStep_eq, State.setPc_tc, State.setPc_divider, State.timerTick_tc,
      State.timerTick_divider, State.setFc_tc, State.setFc_divider]
    split <;> omega
  runningRecord := hs.runningRecord
  haltedRecord := absurd hrun
  unknownRecord := hs.unknownRecord
  overflowRecord := hs.overflowRecord
  underflowRecord := hs.underflowRecord
  keyRecord := hs.keyRecord

/-- A change that leaves the timer counter and a clear fault record alone keeps the invariant. -/
theorem State.Inv.of_sameRecord (hs : s.Inv) (hrun : s.faultCode = .noFault) (hmem : t.mem.wf)
    (htc : t.tc = s.tc) (hdiv : t.divider = s.divider) (hrec : SameRecord s t) : t.Inv := by
  obtain ⟨hc, hpc, hw⟩ := hrec
  rw [hrun] at hc
  refine ⟨hmem, htc ▸ hs.tcPositive, htc ▸ hdiv ▸ hs.tcBounded, fun _ => ?_, ?_, ?_, ?_, ?_, ?_⟩
  · rw [hpc, hw]
    exact hs.runningRecord hrun
  all_goals simp [hc]

/-- Taking an explained fault keeps the invariant (60_exceptions.md R111). -/
theorem State.Inv.takeFault (hs : s.Inv) (hfc : s.fc = false) {c : FaultCode} {w : Word}
    (hw : FaultExplained s w c) : (s.takeFault c w).Inv where
  memCanonical := hs.memCanonical
  tcPositive := hs.tcPositive
  tcBounded := hs.tcBounded
  runningRecord := by rintro rfl; exact hw.elim
  haltedRecord _ := ⟨hfc, (BitVec.sub_add_cancel s.pc 2).symm⟩
  unknownRecord := by rintro rfl; exact hw
  overflowRecord := by rintro rfl; exact hw
  underflowRecord := by rintro rfl; exact hw
  keyRecord := by rintro rfl; exact hw

/-- An instruction of a running engine keeps the invariant. -/
theorem State.Inv.exec {i : Instr} (hs : s.Inv) (hrun : s.faultCode = .noFault)
    (hfc : s.fc = false) (h : exec i s = .next t) : t.Inv := by
  rcases exec_fault_cases h with hrec | ⟨c, hc, rfl⟩
  · exact hs.of_sameRecord hrun (exec_mem_wf hs.memCanonical h) (exec_tc h) (exec_divider h) hrec
  · exact hs.takeFault hfc hc.explained

end keeps

/-- Settles O22, by the three things that a step can do. -/
theorem everyStepKeepsTheInvariant : Obligations.EveryStepKeepsTheInvariant := by
  intro s t hs h
  rcases step_cases s h with ⟨-, rfl⟩ | ⟨hrun, i, -, hi⟩ | ⟨hrun, e, he, rfl⟩
  · exact hs
  · have hcode : s.faultCode = .noFault := by simpa [State.halted] using hrun
    exact (hs.beginStep hcode).exec hcode rfl hi
  · have hcode : s.faultCode = .noFault := by simpa [State.halted] using hrun
    exact (hs.beginStep hcode).takeFault rfl (wordLegal_eq_false_of_rejected he)

/-- Settles O21. -/
theorem invariantHoldsAtReset : Obligations.InvariantHoldsAtReset where
  memCanonical := Memory.reset_wf _
  tcPositive := Nat.le_add_left 1 _
  tcBounded := le_rfl
  runningRecord _ := ⟨rfl, rfl⟩
  haltedRecord := absurd rfl
  unknownRecord := nofun
  overflowRecord := nofun
  underflowRecord := nofun
  keyRecord := nofun

end Sys2Proof.Machine
end

section
/-! SUPPORT. What instructions do not read: the keypad, the sound timer with the divider counter, and
the registers that the access table does not list (10_state.md R33). Each time, `exec` of a state
with the part changed is `exec` of the state, with the part changed afterwards. -/

namespace Sys2Proof.Machine

section keypad
variable (s : State) (k : KeyIdx) (b : Bool)

theorem State.setKey_takeRandom : (s.setKey k b).takeRandom = s.takeRandom.setKey k b := by
  unfold State.takeRandom
  cases hr : s.rndIn <;> simp [hr, State.setKey]

/-- An instruction that reads no key does the same with another key down (10_state.md R28). -/
theorem exec_setKey {i : Instr} {t : State} (hi : ∀ x, i ≠ .skp x ∧ i ≠ .sknp x ∧ i ≠ .ldVxK x)
    (h : exec i s = .next t) : exec i (s.setKey k b) = .next (t.setKey k b) := by
  cases i with
  | skp x => exact absurd rfl (hi x).1
  | sknp x => exact absurd rfl (hi x).2.1
  | ldVxK x => exact absurd rfl (hi x).2.2
  | ret =>
    rcases exec_ret_cases h with ⟨hs, rfl⟩ | ⟨hs, rfl⟩
    · exact exec_ret_pop (s := s.setKey k b) hs
    · exact exec_ret_underflow (s := s.setKey k b) hs
  | call nnn =>
    rcases exec_call_cases h with ⟨hs, rfl⟩ | ⟨hs, rfl⟩
    · exact exec_call_push (s := s.setKey k b) hs
    · exact exec_call_overflow (s := s.setKey k b) hs
  | seImm | sneImm | seReg | sneReg =>
    cases h
    rw [State.skipIf_eq]
    exact congrArg _ (State.skipIf_eq _ _)
  | rnd x nn =>
    cases h
    exact congrArg (fun u : State => (.next (u.setReg x (s.nextRandom &&& nn)) : Result))
      (State.setKey_takeRandom s k b)
  | ldRegs x =>
    rw [exec_ldRegs_eq h]
    rfl
  | _ =>
    cases h
    rfl

end keypad

section soundTimer
variable (s : State) (b : Byte) (c : Nat)

/-- The state with another sound timer and another divider counter (10_state.md R23, R24). -/
def State.retime : State := { s with st := b, tc := c }

theorem State.retime_touches : OnlyTouches (fun p => p = .st ∨ p = .tc) s (s.retime b c) := by
  intro p hp
  cases p with
  | st => exact absurd (.inl rfl) hp
  | tc => exact absurd (.inr rfl) hp
  | _ => rfl

theorem State.retime_skipIf (f : Bool) : (s.retime b c).skipIf f = (s.skipIf f).retime b c := by
  cases f <;> rfl

theorem State.retime_takeRandom : (s.retime b c).takeRandom = s.takeRandom.retime b c := by
  unfold State.takeRandom State.retime
  cases s.rndIn <;> rfl

/-- An instruction does the same with other values of ST and TC (10_state.md R23, R24). -/
theorem exec_retime {i : Instr} {t : State} (h : exec i s = .next t) :
    ∃ b', exec i (s.retime b c) = .next (t.retime b' c) := by
  cases i with
  | ldStVx x =>
    cases h
    exact ⟨s.getReg x, rfl⟩
  | ret =>
    rcases exec_ret_cases h with ⟨hs, rfl⟩ | ⟨hs, rfl⟩
    · exact ⟨b, exec_ret_pop (s := s.retime b c) hs⟩
    · exact ⟨b, exec_ret_underflow (s := s.retime b c) hs⟩
  | call nnn =>
    rcases exec_call_cases h with ⟨hs, rfl⟩ | ⟨hs, rfl⟩
    · exact ⟨b, exec_call_push (s := s.retime b c) hs⟩
    · exact ⟨b, exec_call_overflow (s := s.retime b c) hs⟩
  | seImm | sneImm | seReg | sneReg =>
    cases h
    exact ⟨b, congrArg _ (State.retime_skipIf ..)⟩
  | rnd x nn =>
    cases h
    exact ⟨b, congrArg (fun u : State => (.next (u.setReg x (s.nextRandom &&& nn)) : Result))
      (State.retime_takeRandom s b c)⟩
  | ldRegs x =>
    rw [exec_ldRegs_eq h]
    exact ⟨b, rfl⟩
  | skp x =>
    rcases exec_skp_cases h with ⟨k, hk, rfl⟩ | ⟨hx, rfl⟩
    · exact ⟨b, (exec_skp_key (s := s.retime b c) hk).trans (congrArg _ (State.retime_skipIf ..))⟩
    · exact ⟨b, exec_skp_fault (s := s.retime b c) hx⟩
  | sknp x =>
    rcases exec_sknp_cases h with ⟨k, hk, rfl⟩ | ⟨hx, rfl⟩
    · exact ⟨b, (exec_sknp_key (s := s.retime b c) hk).trans (congrArg _ (State.retime_skipIf ..))⟩
    · exact ⟨b, exec_sknp_fault (s := s.retime b c) hx⟩
  | ldVxK x =>
    rcases exec_ldVxK_cases h with ⟨k, hk, rfl⟩ | ⟨hk, rfl⟩
    · exact ⟨b, exec_ldVxK_key (s := s.retime b c) hk⟩
    · exact ⟨b, exec_ldVxK_wait (s := s.retime b c) hk⟩
  | _ =>
    cases h
    exact ⟨b, rfl⟩

end soundTimer

section registers
variable (s : State) (r : RegIdx) (b : Byte)

theorem State.setReg_v_other {x : RegIdx} (h : r ≠ x) : (s.setReg r b).v[x] = s.v[x] := by
  rw [State.setReg_read, if_neg h]

theorem State.setReg_skipIf (f : Bool) : (s.setReg r b).skipIf f = (s.skipIf f).setReg r b := by
  cases f <;> rfl

theorem State.setReg_takeRandom : (s.setReg r b).takeRandom = s.takeRandom.setReg r b := by
  unfold State.takeRandom
  cases hr : s.rndIn <;> simp [hr, State.setReg]

/-- After a write to some register, an earlier write to the register `r` is a write to it
afterwards, or none where the two registers are one. -/
theorem State.setReg_setReg (x : RegIdx) (c : Byte) :
    ∃ b', (s.setReg r b).setReg x c = (s.setReg x c).setReg r b' := by
  by_cases h : r = x
  · subst h
    exact ⟨c, by simp [State.setReg]⟩
  · exact ⟨b, by simp [State.setReg, Vector.set_comm _ _ (Fin.val_ne_of_ne h)]⟩

theorem State.setReg_setResultFlag (x : RegIdx) (c : Byte) (f : Bool) :
    ∃ b', (s.setReg r b).setResultFlag x c f = (s.setResultFlag x c f).setReg r b' := by
  obtain ⟨b₁, h₁⟩ := State.setReg_setReg s r b x c
  obtain ⟨b₂, h₂⟩ := State.setReg_setReg (s.setReg x c) r b₁ flagReg (flagByte f)
  exact ⟨b₂, by rw [State.setResultFlag_eq, h₁, h₂, State.setResultFlag_eq]⟩

theorem State.setReg_regPrefix {x : RegIdx} (h : ¬ r ≤ x) :
    (s.setReg r b).regPrefix x = s.regPrefix x := by
  apply List.ext_getElem
  · rw [State.regPrefix_length, State.regPrefix_length]
  · intro k hk hk'
    rw [State.regPrefix_length] at hk'
    have hne : r.val ≠ k := fun e => h (Fin.le_def.2 (by omega))
    rw [State.regPrefix_read, State.regPrefix_read, State.setReg_v, Vector.getElem_set_ne _ _ hne]

theorem State.setReg_drawSprite (x0 y0 n : Nat) :
    (s.setReg r b).drawSprite x0 y0 n = s.drawSprite x0 y0 n := rfl

theorem State.setRegs_setReg (v : Vector Byte 16) :
    (s.setRegs v).setReg r b = s.setRegs (v.set r b) := rfl

theorem State.setReg_setRegs (v : Vector Byte 16) : (s.setReg r b).setRegs v = s.setRegs v := rfl

theorem State.setReg_loadedRegs (x : RegIdx) :
    (s.setReg r b).loadedRegs x = (s.loadedRegs x).set r ((s.setReg r b).loadedRegs x)[r] := by
  apply Vector.ext
  intro k hk
  by_cases hrk : r.val = k
  · subst hrk
    simp
  · have hne : r ≠ ⟨k, hk⟩ := fun e => hrk (congrArg Fin.val e)
    have hl := State.loadedRegs_read (s.setReg r b) x ⟨k, hk⟩
    rw [State.setReg_v_other s r b hne] at hl
    rw [Vector.getElem_set_ne _ _ hrk]
    exact hl.trans (State.loadedRegs_read s x ⟨k, hk⟩).symm

theorem State.setReg_setRegs_loaded (x : RegIdx) :
    ∃ b', (s.setReg r b).setRegs ((s.setReg r b).loadedRegs x) =
      (s.setRegs (s.loadedRegs x)).setReg r b' := by
  have hv := State.setReg_loadedRegs s r b x
  generalize (s.setReg r b).loadedRegs x = v at hv
  refine ⟨v[r], ?_⟩
  rw [State.setReg_setRegs, State.setRegs_setReg, ← hv]

/-- In a state where a register that the access table does not list holds something else, an
instruction does the same but, at most, to that register (10_state.md R16, R33). -/
theorem exec_setReg_unread {i : Instr} {t : State} (hr : ¬ ReadsRegister i r)
    (h : exec i s = .next t) : ∃ b', exec i (s.setReg r b) = .next (t.setReg r b') := by
  cases i with
  | cls | jp | ldI =>
    cases h
    exact ⟨b, rfl⟩
  | ret =>
    rcases exec_ret_cases h with ⟨hs, rfl⟩ | ⟨hs, rfl⟩
    · exact ⟨b, exec_ret_pop (s := s.setReg r b) hs⟩
    · exact ⟨b, exec_ret_underflow (s := s.setReg r b) hs⟩
  | call nnn =>
    rcases exec_call_cases h with ⟨hs, rfl⟩ | ⟨hs, rfl⟩
    · exact ⟨b, exec_call_push (s := s.setReg r b) hs⟩
    · exact ⟨b, exec_call_overflow (s := s.setReg r b) hs⟩
  | jpV0 nnn =>
    cases h
    refine ⟨b, ?_⟩
    simp only [exec, execJpV0, State.getReg_eq, State.setReg_v_other s r b hr]
    rfl
  | addI x | ldF x | ldDtVx x | ldStVx x | ldB x =>
    cases h
    refine ⟨b, ?_⟩
    simp only [exec, execAddI, execLdF, execLdDtVx, execLdStVx, execLdB, State.getReg_eq,
      State.setReg_v_other s r b hr]
    rfl
  | seImm x nn | sneImm x nn =>
    cases h
    refine ⟨b, ?_⟩
    simp only [exec, execSeImm, execSneImm, State.getReg_eq, State.setReg_v_other s r b hr,
      State.setReg_skipIf]
  | seReg x y | sneReg x y =>
    obtain ⟨hx, hy⟩ := not_or.1 hr
    cases h
    refine ⟨b, ?_⟩
    simp only [exec, execSeReg, execSneReg, State.getReg_eq, State.setReg_v_other s r b hx,
      State.setReg_v_other s r b hy, State.setReg_skipIf]
  | ldImm x nn | ldVxDt x =>
    cases h
    exact (State.setReg_setReg s r b x _).imp fun _ => congrArg _
  | addImm x nn =>
    cases h
    simp only [exec, execAddImm, State.getReg_eq, State.setReg_v_other s r b hr]
    exact (State.setReg_setReg s r b x _).imp fun _ => congrArg _
  | ldReg x y =>
    cases h
    simp only [exec, execLdReg, State.getReg_eq, State.setReg_v_other s r b hr]
    exact (State.setReg_setReg s r b x _).imp fun _ => congrArg _
  | orReg x y | andReg x y | xorReg x y =>
    obtain ⟨hx, hy⟩ := not_or.1 hr
    cases h
    simp only [exec, execOrReg, execAndReg, execXorReg, State.getReg_eq,
      State.setReg_v_other s r b hx, State.setReg_v_other s r b hy]
    exact (State.setReg_setReg s r b x _).imp fun _ => congrArg _
  | addReg x y | subReg x y | subn x y =>
    obtain ⟨hx, hy⟩ := not_or.1 hr
    cases h
    simp only [exec, execAddReg, execSubReg, execSubn, State.getReg_eq,
      State.setReg_v_other s r b hx, State.setReg_v_other s r b hy]
    exact (State.setReg_setResultFlag s r b x _ _).imp fun _ => congrArg _
  | shr x y | shl x y =>
    cases h
    simp only [exec, execShr, execShl, State.getReg_eq, State.setReg_v_other s r b hr]
    exact (State.setReg_setResultFlag s r b x _ _).imp fun _ => congrArg _
  | rnd x nn =>
    cases h
    simp only [exec, execRnd, State.setReg_takeRandom]
    exact (State.setReg_setReg s.takeRandom r b x _).imp fun _ => congrArg _
  | drw x y n =>
    obtain ⟨hx, hy⟩ := not_or.1 hr
    cases h
    simp only [exec, execDrw, State.getReg_eq, State.setReg_v_other s r b hx,
      State.setReg_v_other s r b hy, State.setReg_drawSprite]
    generalize s.drawSprite _ _ _ = d
    exact (State.setReg_setReg s r b flagReg (flagByte d.hit)).imp fun _ =>
      congrArg fun u : State => (.next ((u.setGrid d.grid).setFc true) : Result)
  | skp x =>
    have hv := State.setReg_v_other s r b hr
    rcases exec_skp_cases h with ⟨k, hk, rfl⟩ | ⟨hx, rfl⟩
    · exact ⟨b, (exec_skp_key (hv ▸ hk)).trans (congrArg _ (State.setReg_skipIf ..))⟩
    · exact ⟨b, exec_skp_fault (s := s.setReg r b) (hv ▸ hx)⟩
  | sknp x =>
    have hv := State.setReg_v_other s r b hr
    rcases exec_sknp_cases h with ⟨k, hk, rfl⟩ | ⟨hx, rfl⟩
    · exact ⟨b, (exec_sknp_key (hv ▸ hk)).trans (congrArg _ (State.setReg_skipIf ..))⟩
    · exact ⟨b, exec_sknp_fault (s := s.setReg r b) (hv ▸ hx)⟩
  | ldVxK x =>
    rcases exec_ldVxK_cases h with ⟨k, hk, rfl⟩ | ⟨hk, rfl⟩
    · rw [exec_ldVxK_key (s := s.setReg r b) hk]
      exact (State.setReg_setReg s r b x _).imp fun _ => congrArg _
    · exact ⟨b, exec_ldVxK_wait (s := s.setReg r b) hk⟩
  | stRegs x =>
    cases h
    simp only [exec, execStRegs, State.setReg_regPrefix s r b hr]
    exact ⟨b, rfl⟩
  | ldRegs x =>
    rw [exec_ldRegs_eq h]
    obtain ⟨b', hb⟩ := State.setReg_setRegs_loaded s r b x
    exact ⟨b', by rw [exec_ldRegs, hb]⟩

end registers

/-- Settles O16. -/
theorem onlyThreeInstructionsReadKeys : Obligations.OnlyThreeInstructionsReadKeys :=
  fun _ s _ k b hi h => exec_setKey s k b hi h

/-- Settles O17: the two next states differ in ST and TC only. -/
theorem noInstructionReadsSoundTimerOrDivider :
    Obligations.NoInstructionReadsSoundTimerOrDivider := by
  intro i s t b c h
  obtain ⟨b', hu⟩ := exec_retime s b c h
  exact ⟨t.retime b' c, hu, State.retime_touches t b' c⟩

/-- Settles O15: the two next states differ in the unread register only. -/
theorem unreadRegistersDoNotMatter : Obligations.UnreadRegistersDoNotMatter := by
  intro i s t r b hr h
  obtain ⟨b', hu⟩ := exec_setReg_unread s r b hr h
  exact ⟨t.setReg r b', hu, State.setReg_touches t r b'⟩

end Sys2Proof.Machine
end

section
/-! SUPPORT. Whole steps, canonical memories, the state after reset and the host's reads. -/

namespace Sys2Proof.Machine

section wholeStep

/-- The parts that the phases before execution and a fault entry write (40_cycle.md R64, R65, R67;
60_exceptions.md R111). -/
def StepPart (p : Part) : Prop :=
  (p = .frameFlag ∨ p = .tc ∨ p = .dt ∨ p = .st ∨ p = .pc) ∨ FaultPart p

/-- The frame of a whole step: the parts above, and what the decoded instruction may write. -/
theorem step_touches {s t : State} (h : step s = .next t) :
    OnlyTouches (fun p => StepPart p ∨
      ∃ i, decodeWord s.fetch = .ok i ∧ MayWrite i s.beginStep p) s t := by
  rcases step_cases s h with ⟨-, rfl⟩ | ⟨-, i, hd, hi⟩ | ⟨-, e, -, rfl⟩
  · exact OnlyTouches.refl _ t
  · refine ((State.beginStep_touches s).trans (exec_touches hi)).mono fun p hp => ?_
    exact hp.imp .inl fun hw => ⟨i, hd, hw⟩
  · exact ((State.beginStep_touches s).trans (State.setFault_touches _ _ _ _)).mono fun p => .inl

/-- A part that no phase before execution and no fault entry writes changes only where the decoded
instruction may write it. -/
theorem step_changed {s t : State} (h : step s = .next t) {p : Part} (hp : ¬ StepPart p)
    (hne : ¬ p.Agrees s t) : ∃ i, decodeWord s.fetch = .ok i ∧ MayWrite i s.beginStep p := by
  by_contra hi
  exact hne (step_touches h p (not_or.2 ⟨hp, hi⟩))

section whoWrites
variable {i : Instr} {s : State}

theorem not_mayWrite_key (k : KeyIdx) : ¬ MayWrite i s (.key k) := by
  cases i <;> simp [MayWrite, FaultPart, BytesFrom]

theorem mayWrite_byte {a : Nat} (h : MayWrite i s (.byte a)) : ∃ x, i = .ldB x ∨ i = .stRegs x := by
  cases i <;> simp [MayWrite, FaultPart] at h ⊢

theorem mayWrite_pixel {x y : Nat} (h : MayWrite i s (.pixel x y)) :
    i = .cls ∨ ∃ x y n, i = .drw x y n := by
  cases i <;> simp [MayWrite, FaultPart, BytesFrom] at h ⊢

theorem mayWrite_slot {j : Fin 16} (h : MayWrite i s (.slot j)) : ∃ nnn, i = .call nnn := by
  cases i <;> simp [MayWrite, FaultPart, BytesFrom] at h ⊢

theorem mayWrite_addressReg (h : MayWrite i s .addressReg) :
    (∃ nnn, i = .ldI nnn) ∨ ∃ x, i = .addI x ∨ i = .ldF x := by
  cases i <;> simp [MayWrite, FaultPart, BytesFrom] at h ⊢

end whoWrites

/-- Settles O18: a part that changed in a step is one that the decoded instruction may write. -/
theorem whoMayChangeKeysMemoryGridStackAndI :
    Obligations.WhoMayChangeKeysMemoryGridStackAndI := by
  intro s t h
  refine ⟨?_, fun a hne => ?_, fun hne => ?_, fun hne => ?_, fun hne => ?_⟩
  · refine Vector.ext fun k hk => by_contra fun hne => ?_
    obtain ⟨i, -, hi⟩ := step_changed h (p := .key ⟨k, hk⟩) (by simp [StepPart, FaultPart]) hne
    exact not_mayWrite_key _ hi
  · obtain ⟨i, hd, hi⟩ := step_changed h (p := .byte a) (by simp [StepPart, FaultPart]) hne
    obtain ⟨x, rfl | rfl⟩ := mayWrite_byte hi
    · exact ⟨x, .inl hd⟩
    · exact ⟨x, .inr hd⟩
  · obtain ⟨x, y, hxy⟩ : ∃ x y, t.grid.pixel x y ≠ s.grid.pixel x y := by
      by_contra hall
      push Not at hall
      exact hne (Grid.ext_pixel fun x y _ _ => hall x y)
    obtain ⟨i, hd, hi⟩ := step_changed h (p := .pixel x y) (by simp [StepPart, FaultPart]) hxy
    obtain rfl | ⟨x, y, n, rfl⟩ := mayWrite_pixel hi
    · exact .inl hd
    · exact .inr ⟨x, y, n, hd⟩
  · obtain ⟨j, hj⟩ : ∃ j : Fin 16, t.stack[j] ≠ s.stack[j] := by
      by_contra hall
      push Not at hall
      exact hne (Vector.ext fun j hj => hall ⟨j, hj⟩)
    obtain ⟨i, hd, hi⟩ := step_changed h (p := .slot j) (by simp [StepPart, FaultPart]) hj
    obtain ⟨nnn, rfl⟩ := mayWrite_slot hi
    exact ⟨nnn, hd⟩
  · obtain ⟨i, hd, hi⟩ := step_changed h (p := .addressReg) (by simp [StepPart, FaultPart]) hne
    obtain ⟨nnn, rfl⟩ | ⟨x, rfl | rfl⟩ := mayWrite_addressReg hi
    · exact .inl ⟨nnn, hd⟩
    · exact .inr ⟨x, .inl hd⟩
    · exact .inr ⟨x, .inr hd⟩

end wholeStep

section canonical

/-- In a memory with rising addresses a listed byte is the one that is read. -/
theorem Memory.lookup_of_mem {m : Memory} (hm : m.Pairwise (fun c d => c.1 < d.1)) {c : Host.Cell}
    (hc : c ∈ m) : m.lookup c.1 = c.2 := by
  induction m with
  | nil => simp at hc
  | cons d m ih =>
    obtain ⟨hd, hm⟩ := List.pairwise_cons.1 hm
    rcases List.mem_cons.1 hc with rfl | hc
    · simp [Memory.lookup]
    · simp [Memory.lookup, (hd c hc).ne, ih hm hc]

/-- What a canonical memory lists: the bytes that read as something else than after reset. -/
theorem Memory.mem_iff {m : Memory} (hm : m.wf) (c : Host.Cell) :
    c ∈ m ↔ c.1 < 4096 ∧ m.lookup c.1 = c.2 ∧ c.2 ≠ Memory.initByte c.1 := by
  constructor
  · intro hc
    exact ⟨(hm.2 c hc).1, Memory.lookup_of_mem hm.1 hc, (hm.2 c hc).2⟩
  · rintro ⟨-, hl, hne⟩
    obtain ⟨d, hd, hdc⟩ : ∃ d ∈ m, d.1 = c.1 := by
      by_contra hno
      push Not at hno
      exact hne (hl.symm.trans (Memory.lookup_eq_init_of_not_listed hno))
    have hd₂ : d.2 = c.2 := by rw [← Memory.lookup_of_mem hm.1 hd, hdc, hl]
    rwa [← Prod.ext hdc hd₂]

theorem Memory.nodup {m : Memory} (hm : m.wf) : m.Nodup :=
  hm.1.imp fun hlt e => by simp [e] at hlt

/-- Settles O29: the two lists have the same entries, and both are in rising order. -/
theorem canonicalMemoriesThatReadAlikeAreEqual :
    Obligations.CanonicalMemoriesThatReadAlikeAreEqual := by
  intro m m' hm hm' hread
  have hmem : ∀ c, c ∈ m ↔ c ∈ m' := fun c => by
    rw [Memory.mem_iff hm, Memory.mem_iff hm']
    exact and_congr_right fun hc => by rw [hread c.1 hc]
  have hperm := (List.perm_ext_iff_of_nodup (Memory.nodup hm) (Memory.nodup hm')).2 hmem
  exact hperm.eq_of_pairwise (fun a b _ _ hab hba => absurd hab hba.asymm) hm.1 hm'.1

end canonical

section reset

theorem Memory.initByte_below_font {a : Nat} (h : a < 0x050) : Memory.initByte a = 0 :=
  if_neg (by simpa using h)

theorem Memory.initByte_font (k : Nat) :
    Memory.initByte (0x050 + k) = Config.font.getD k 0 := by
  rw [Memory.initByte, if_pos (Nat.le_add_right _ _), Nat.add_sub_cancel_left]

theorem Memory.initByte_above_font {a : Nat} (h : 0x0A0 ≤ a) : Memory.initByte a = 0 := by
  obtain ⟨k, rfl⟩ := Nat.exists_eq_add_of_le (show 0x050 ≤ a by omega)
  have hlen : Config.font.length = 80 := rfl
  rw [Memory.initByte_font, List.getD_eq_default _ _ (by omega)]

/-- A state whose engine is as after reset, with any parameter and random input
(10_state.md R31, R32). -/
def State.resetAs (d : Nat) (rnd : List Byte) (n : Nat) : State :=
  { State.resetWith d with rndIn := rnd, draws := n }

theorem State.resetAs_readByte (d : Nat) (rnd : List Byte) (n : Nat) {a : Nat} (h : a < 4096) :
    (State.resetAs d rnd n).readByte a = Memory.initByte a := by
  show Memory.initByte (a % 4096) = _
  rw [Nat.mod_eq_of_lt h]

/-- Settles O19: `State.reset` and the state after a Reset transaction are two states whose engine
is as after reset. -/
theorem resetValues : Obligations.ResetValues := by
  intro s t ht
  obtain ⟨d, rnd, n, rfl⟩ : ∃ d rnd n, t = State.resetAs d rnd n := by
    rcases ht with rfl | rfl
    · exact ⟨_, _, _, rfl⟩
    · exact ⟨_, _, _, rfl⟩
  refine ⟨fun x => ?_, rfl, rfl, rfl, fun j => ?_, rfl, rfl, rfl, fun a ha hout => ?_,
    fun g hg r hr => ?_, Grid.pixel_clear, rfl, fun k => ?_, rfl, rfl, rfl, rfl, rfl, rfl⟩
  · simp [State.resetAs, State.resetWith]
  · simp [State.resetAs, State.resetWith]
  · rw [State.resetAs_readByte d rnd n ha]
    exact hout.elim Memory.initByte_below_font Memory.initByte_above_font
  · rw [State.resetAs_readByte d rnd n (by omega), Nat.add_assoc, Memory.initByte_font]
  · simp [State.resetAs, State.resetWith]

end reset

section hostReads

/-- The frame is the grid, row after row (60_exceptions.md R122). -/
theorem State.frame_eq_flatten (s : State) : s.frame = s.grid.flatten.toList :=
  calc s.frame
      = (s.grid.toArray.toList.map (Array.toList ∘ Vector.toArray)).flatten := rfl
    _ = s.grid.flatten.toList := by simp [Vector.flatten]

theorem State.frame_pixel (s : State) {x y : Nat} (hx : x < 64) (hy : y < 32) :
    s.frame[y * 64 + x]? = some (s.grid.pixel x y) := by
  have hlt : y * 64 + x < 32 * 64 := by omega
  rw [State.frame_eq_flatten, Vector.getElem?_toList, Vector.getElem?_eq_getElem hlt,
    Vector.getElem_flatten]
  have hdiv : (y * 64 + x) / 64 = y := by omega
  have hmod : (y * 64 + x) % 64 = x := by omega
  simp [hdiv, hmod, Grid.pixel, hx, hy]

/-- Settles O26. -/
theorem hostReadsSeeTheStateAndChangeNothing :
    Obligations.HostReadsSeeTheStateAndChangeNothing := by
  intro s
  refine ⟨⟨s.frame, rfl, ?_, fun x y => s.frame_pixel⟩, rfl, rfl⟩
  exact (congrArg List.length (State.frame_eq_flatten s)).trans Vector.length_toList

end hostReads

end Sys2Proof.Machine
end

section
/-! SUPPORT. Progress of every step, addresses reduced mod 4096, and the bytes that stores give to
the next fetch (20_memory.md R39, R42, R46). -/

namespace Sys2Proof.Machine

section progress

/-- Every instruction answers a next state: each outcome of the instructions that have two is one
(60_exceptions.md R111). -/
theorem exec_next (i : Instr) (s : State) : ∃ t, exec i s = .next t := by
  cases i with
  | ret =>
    rcases eq_or_ne s.sp 0 with hs | hs
    · exact ⟨_, exec_ret_underflow hs⟩
    · exact ⟨_, exec_ret_pop (Fin.pos_iff_ne_zero.2 hs)⟩
  | call nnn =>
    rcases Nat.lt_or_eq_of_le (Nat.le_of_lt_succ s.sp.isLt) with hs | hs
    · exact ⟨_, exec_call_push hs⟩
    · exact ⟨_, exec_call_overflow (Fin.ext hs)⟩
  | skp x =>
    rcases Nat.lt_or_ge 15 s.v[x].toNat with hx | hx
    · exact ⟨_, exec_skp_fault hx⟩
    · exact ⟨_, exec_skp_key (k := ⟨_, Nat.lt_succ_of_le hx⟩) rfl⟩
  | sknp x =>
    rcases Nat.lt_or_ge 15 s.v[x].toNat with hx | hx
    · exact ⟨_, exec_sknp_fault hx⟩
    · exact ⟨_, exec_sknp_key (k := ⟨_, Nat.lt_succ_of_le hx⟩) rfl⟩
  | ldVxK x =>
    cases hk : s.lowestKey with
    | some k => exact ⟨_, exec_ldVxK_key hk⟩
    | none => exact ⟨_, exec_ldVxK_wait hk⟩
  | _ => exact ⟨_, rfl⟩

/-- Settles O7, by the three things that a step can do. -/
theorem everyStepAnswersANextState : Obligations.EveryStepAnswersANextState := by
  intro s
  cases hh : s.halted with
  | true => exact ⟨s, step_halted s hh⟩
  | false =>
    cases hd : decodeWord s.fetch with
    | ok i =>
      rw [step_decoded s hh hd]
      exact exec_next i s.beginStep
    | error e => exact ⟨_, step_unknown s hh hd⟩

end progress

section reduction
variable (s : State)

theorem State.readByte_congr {a b : Nat} (h : a % 4096 = b % 4096) :
    s.readByte a = s.readByte b := by
  rw [State.readByte_eq, State.readByte_eq, h]

theorem Memory.storeBytes_congr (m : Memory) {a b : Nat} (h : a % 4096 = b % 4096)
    (bs : List Byte) : m.storeBytes a bs = m.storeBytes b bs := by
  induction bs generalizing m a b with
  | nil => rfl
  | cons c bs ih =>
    have hmask : maskAddr a = maskAddr b := h
    simp only [Memory.storeBytes, hmask]
    exact ih _ (Nat.ModEq.add_right 1 h)

/-- The low 12 bits of a word are the word mod 4096 (20_memory.md R39). -/
theorem low12_toNat (w : Word) : (w &&& 0xFFF).toNat = w.toNat % 4096 :=
  (BitVec.toNat_and ..).trans (Nat.and_two_pow_sub_one_eq_mod w.toNat 12)

/-- An offset from a reduced address reaches what it does from the address (20_memory.md R39). -/
theorem low12_add_mod (w : Word) (k : Nat) :
    ((w &&& 0xFFF).toNat + k) % 4096 = (w.toNat + k) % 4096 := by
  rw [low12_toNat, Nat.mod_add_mod]

/-- The state with I reduced mod 4096 (20_memory.md R39). -/
def State.reduceI : State := s.setI (s.i &&& 0xFFF)

theorem State.reduceI_readByte_indexAddr (k : Nat) :
    s.reduceI.readByte (s.reduceI.indexAddr k) = s.readByte (s.indexAddr k) :=
  s.readByte_congr (low12_add_mod s.i k)

theorem State.reduceI_drawSprite (x0 y0 n : Nat) :
    s.reduceI.drawSprite x0 y0 n = s.drawSprite x0 y0 n := by
  simp only [State.drawSprite, State.reduceI_readByte_indexAddr]
  rfl

theorem State.reduceI_loadedRegs (x : RegIdx) : s.reduceI.loadedRegs x = s.loadedRegs x := by
  simp only [State.loadedRegs, State.reduceI_readByte_indexAddr]
  rfl

theorem State.reduceI_writeBytes (bs : List Byte) :
    s.reduceI.writeBytes (s.reduceI.indexAddr 0) bs = (s.writeBytes (s.indexAddr 0) bs).reduceI :=
  congrArg s.reduceI.setMem (Memory.storeBytes_congr s.mem (low12_add_mod s.i 0) bs)

/-- Fetch sees PC only mod 4096, also where the word lies across the top of memory
(20_memory.md R39, R40). -/
theorem State.fetch_setPc_low12 : (s.setPc (s.pc &&& 0xFFF)).fetch = s.fetch := by
  have hhi : s.readByte (s.pc &&& 0xFFF).toNat = s.readByte s.pc.toNat :=
    s.readByte_congr (low12_add_mod s.pc 0)
  have hlo : s.readByte ((s.pc &&& 0xFFF).toNat + 1) = s.readByte (s.pc.toNat + 1) :=
    s.readByte_congr (low12_add_mod s.pc 1)
  exact congrArg₂ joinBytes hhi hlo

/-- DXYN, FX33, FX55 and FX65 do the same with I reduced (20_memory.md R39). -/
theorem exec_reduceI {i : Instr} {t : State} {x y : RegIdx} {n : BitVec 4}
    (hi : i = .drw x y n ∨ i = .ldB x ∨ i = .stRegs x ∨ i = .ldRegs x)
    (h : exec i s = .next t) : exec i s.reduceI = .next (t.setI (s.i &&& 0xFFF)) := by
  rcases hi with rfl | rfl | rfl | rfl
  · cases h
    simp only [exec, execDrw, State.reduceI_drawSprite]
    rfl
  · cases h
    exact congrArg _ (s.reduceI_writeBytes _)
  · cases h
    exact congrArg _ (s.reduceI_writeBytes _)
  · rw [exec_ldRegs_eq h, exec_ldRegs, State.reduceI_loadedRegs]
    rfl

/-- Settles O30. -/
theorem addressesAreReducedModulo4096 : Obligations.AddressesAreReducedModulo4096 :=
  fun s _ _ _ _ _ hi h => ⟨exec_reduceI s hi h, s.fetch_setPc_low12⟩

end reduction

section storedWord

theorem State.fetch_toNat (s : State) :
    s.fetch.toNat = (s.readByte s.pc.toNat).toNat * 256 + (s.readByte (s.pc.toNat + 1)).toNat :=
  append_toNat _ _

/-- The first byte of the fetched word is the byte at PC (20_memory.md R40). -/
theorem State.fetch_high (s : State) : s.fetch.toNat / 256 = (s.readByte s.pc.toNat).toNat := by
  have := (s.readByte (s.pc.toNat + 1)).isLt
  rw [State.fetch_toNat]
  omega

/-- The second byte of the fetched word is the byte after the one at PC (20_memory.md R40). -/
theorem State.fetch_low (s : State) :
    s.fetch.toNat % 256 = (s.readByte (s.pc.toNat + 1)).toNat := by
  have := (s.readByte (s.pc.toNat + 1)).isLt
  rw [State.fetch_toNat]
  omega

theorem hundredsDigit_toNat (b : Byte) : (hundredsDigit b).toNat = b.toNat / 100 := by
  simp only [hundredsDigit, BitVec.toNat_ofNat]
  omega

theorem tensDigit_toNat (b : Byte) : (tensDigit b).toNat = b.toNat / 10 % 10 := by
  simp only [tensDigit, BitVec.toNat_ofNat]
  omega

theorem unitsDigit_toNat (b : Byte) : (unitsDigit b).toNat = b.toNat % 10 := by
  simp only [unitsDigit, BitVec.toNat_ofNat]
  omega

/-- `t` is `s` after some bytes, whose numbers are `b 0` .. `b (n - 1)`, are stored from I on: what
FX33 and FX55 do (20_memory.md R41). -/
def StoresAtI (s t : State) (n : Nat) (b : Nat → Nat) : Prop :=
  ∃ bs : List Byte, t = s.writeBytes s.i.toNat bs ∧ bs.length = n ∧ n ≤ 16 ∧
    ∀ k (hk : k < bs.length), bs[k].toNat = b k

theorem exec_stRegs_storesAtI {s t : State} {x : RegIdx} {b : Nat → Nat}
    (h : exec (.stRegs x) s = .next t) (hb : ∀ k : RegIdx, k ≤ x → b k.val = s.v[k].toNat) :
    StoresAtI s t (x.val + 1) b := by
  cases h
  refine ⟨s.regPrefix x, rfl, s.regPrefix_length x, x.isLt, fun k hk => ?_⟩
  have hkx : k < x.val + 1 := s.regPrefix_length x ▸ hk
  rw [State.regPrefix_read]
  exact (hb ⟨k, by omega⟩ (Nat.le_of_lt_succ hkx)).symm

theorem exec_ldB_storesAtI {s t : State} {x : RegIdx} {b : Nat → Nat}
    (h : exec (.ldB x) s = .next t) (h₀ : b 0 = s.v[x].toNat / 100)
    (h₁ : b 1 = s.v[x].toNat / 10 % 10) (h₂ : b 2 = s.v[x].toNat % 10) :
    StoresAtI s t 3 b := by
  cases h
  refine ⟨[hundredsDigit s.v[x], tensDigit s.v[x], unitsDigit s.v[x]], rfl, rfl, by decide,
    fun k hk => ?_⟩
  match k, hk with
  | 0, _ => exact (hundredsDigit_toNat _).trans h₀.symm
  | 1, _ => exact (tensDigit_toNat _).trans h₁.symm
  | 2, _ => exact (unitsDigit_toNat _).trans h₂.symm

theorem StoresAtI.pc {s t : State} {n : Nat} {b : Nat → Nat} (h : StoresAtI s t n b) :
    t.pc = s.pc := by
  obtain ⟨bs, rfl, -⟩ := h
  rfl

/-- A byte that the stores reach reads as what was stored there. -/
theorem StoresAtI.readByte {s t : State} {n : Nat} {b : Nat → Nat} (h : StoresAtI s t n b)
    (hm : s.mem.wf) {a k : Nat} (hk : k < n) (ha : a % 4096 = (s.i.toNat + k) % 4096) :
    (t.readByte a).toNat = b k := by
  obtain ⟨bs, rfl, rfl, hl, hb⟩ := h
  rw [State.readByte_congr _ ha, State.writeBytes_read s hm _ bs (by omega) k hk]
  exact hb k hk

/-- A byte that the stores do not reach reads as before. -/
theorem StoresAtI.readByte_other {s t : State} {n : Nat} {b : Nat → Nat} (h : StoresAtI s t n b)
    {a : Nat} (ha : ∀ k < n, a % 4096 ≠ (s.i.toNat + k) % 4096) : t.readByte a = s.readByte a := by
  obtain ⟨bs, rfl, rfl, -⟩ := h
  exact State.writeBytes_read_other s _ a bs fun k hk => (ha k hk).symm

/-- Settles O31: the two bytes of the fetched word are read after the stores, which leave PC
alone. -/
theorem storedWordIsFetchedNext : Obligations.StoredWordIsFetchedNext := by
  intro s t x n b hm h
  have hst : StoresAtI s t n b := by
    rcases h with ⟨h, rfl, hb⟩ | ⟨h, rfl, h₀, h₁, h₂⟩
    · exact exec_stRegs_storesAtI h hb
    · exact exec_ldB_storesAtI h h₀ h₁ h₂
  rw [State.fetch_high, State.fetch_low, State.fetch_high, State.fetch_low, hst.pc]
  exact ⟨fun k hk ha => hst.readByte hm hk ha, fun k hk ha => hst.readByte hm hk ha,
    fun ha => congrArg _ (hst.readByte_other ha), fun ha => congrArg _ (hst.readByte_other ha)⟩

end storedWord

end Sys2Proof.Machine
end

section
/-! SUPPORT. The decoder and the encoder are each other's inverse, the rows of the opcode map are
the instructions, and the words outside it are rejected (30_encoding.md R48-R59). -/

namespace Sys2Proof

open Sys2Proof.Laws

section roundTrip

/-- The decoder reads the family and the selector that the encoder wrote (30_encoding.md R52). -/
theorem decodeWord_encode (i : Instr) : decodeWord (encode i) = .ok i := by
  cases i with
  | cls | ret => rfl
  | jp | call | ldI | jpV0 => simp [encode, decodeWord]
  | seImm | sneImm | ldImm | addImm | rnd => simp [encode, decodeWord]
  | drw => simp [encode, decodeWord]
  | seReg => simp [encode, decodeWord, decodeFamily5]
  | ldReg | orReg | andReg | xorReg | addReg | subReg | shr | subn | shl =>
    simp [encode, decodeWord, decodeFamily8]
  | sneReg => simp [encode, decodeWord, decodeFamily9]
  | skp | sknp => simp [encode, decodeWord, decodeFamilyE]
  | ldVxDt | ldVxK | ldDtVx | ldStVx | addI | ldF | ldB | stRegs | ldRegs =>
    simp [encode, decodeWord, decodeFamilyF]

/-- Two bytes decode as the word they make, and the bytes after it are left (20_memory.md R40). -/
theorem decodeBytes_of_decodeWord {w : Word} {i : Instr} (h : decodeWord w = .ok i)
    (rest : List Byte) : decodeBytes (highByte w :: lowByte w :: rest) = .ok (i, rest) := by
  simp only [decodeBytes, joinBytes_bytes, h]

/-- Settles O1, by the case of each instruction. -/
theorem decodeOfEncodeIsTheInstruction : Obligations.DecodeOfEncodeIsTheInstruction :=
  fun i rest => ⟨decodeWord_encode i, decodeBytes_of_decodeWord (decodeWord_encode i) rest⟩

variable {w : Word} {i : Instr}

theorem encode_of_decodeFamily0 (ho : (opField w).toNat = 0x0) (h : decodeFamily0 w = .ok i) :
    encode i = w := by
  unfold decodeFamily0 at h
  split at h <;> cases h <;> exact encodeA_of_fields w ho ‹_›

theorem encode_of_decodeFamily5 (ho : (opField w).toNat = 0x5) (h : decodeFamily5 w = .ok i) :
    encode i = w := by
  unfold decodeFamily5 at h
  split at h <;> cases h
  exact encodeXYN_of_fields w ho ‹_›

theorem encode_of_decodeFamily8 (ho : (opField w).toNat = 0x8) (h : decodeFamily8 w = .ok i) :
    encode i = w := by
  unfold decodeFamily8 at h
  split at h <;> cases h <;> exact encodeXYN_of_fields w ho ‹_›

theorem encode_of_decodeFamily9 (ho : (opField w).toNat = 0x9) (h : decodeFamily9 w = .ok i) :
    encode i = w := by
  unfold decodeFamily9 at h
  split at h <;> cases h
  exact encodeXYN_of_fields w ho ‹_›

theorem encode_of_decodeFamilyE (ho : (opField w).toNat = 0xE) (h : decodeFamilyE w = .ok i) :
    encode i = w := by
  unfold decodeFamilyE at h
  split at h <;> cases h <;> exact encodeXK_of_fields w ho ‹_›

theorem encode_of_decodeFamilyF (ho : (opField w).toNat = 0xF) (h : decodeFamilyF w = .ok i) :
    encode i = w := by
  unfold decodeFamilyF at h
  split at h <;> cases h <;> exact encodeXK_of_fields w ho ‹_›

/-- Settles O2: every field of the word is either an operand or fixed by the family's selector. -/
theorem encodeOfDecodeIsTheWord : Obligations.EncodeOfDecodeIsTheWord := by
  intro w i h
  unfold decodeWord at h
  split at h
  next ho => exact encode_of_decodeFamily0 ho h
  next ho => cases h; exact encodeA_of_fields w ho rfl
  next ho => cases h; exact encodeA_of_fields w ho rfl
  next ho => cases h; exact encodeXK_of_fields w ho rfl
  next ho => cases h; exact encodeXK_of_fields w ho rfl
  next ho => exact encode_of_decodeFamily5 ho h
  next ho => cases h; exact encodeXK_of_fields w ho rfl
  next ho => cases h; exact encodeXK_of_fields w ho rfl
  next ho => exact encode_of_decodeFamily8 ho h
  next ho => exact encode_of_decodeFamily9 ho h
  next ho => cases h; exact encodeA_of_fields w ho rfl
  next ho => cases h; exact encodeA_of_fields w ho rfl
  next ho => cases h; exact encodeXK_of_fields w ho rfl
  next ho => cases h; exact encodeXYN_of_fields w ho rfl
  next ho => exact encode_of_decodeFamilyE ho h
  next =>
    have ho : (opField w).toNat = 0xF := by simp only [imp_false] at *; omega
    exact encode_of_decodeFamilyF ho h

end roundTrip

section opcodeMap
variable {w : Word} {i : Instr} {r r' : OpcodeRow}

/-- Every instruction's word is in the instruction's own row (30_encoding.md R53). -/
theorem encode_coveredByPattern : ∀ i : Instr, coveredByPattern i.pattern (encode i) = true
  | .cls => Encoding.cls
  | .ret => Encoding.ret
  | .jp nnn => Encoding.jp nnn
  | .call nnn => Encoding.call nnn
  | .seImm x nn => Encoding.seImm x nn
  | .sneImm x nn => Encoding.sneImm x nn
  | .seReg x y => Encoding.seReg x y
  | .ldImm x nn => Encoding.ldImm x nn
  | .addImm x nn => Encoding.addImm x nn
  | .ldReg x y => Encoding.ldReg x y
  | .orReg x y => Encoding.orReg x y
  | .andReg x y => Encoding.andReg x y
  | .xorReg x y => Encoding.xorReg x y
  | .addReg x y => Encoding.addReg x y
  | .subReg x y => Encoding.subReg x y
  | .shr x y => Encoding.shr x y
  | .subn x y => Encoding.subn x y
  | .shl x y => Encoding.shl x y
  | .sneReg x y => Encoding.sneReg x y
  | .ldI nnn => Encoding.ldI nnn
  | .jpV0 nnn => Encoding.jpV0 nnn
  | .rnd x nn => Encoding.rnd x nn
  | .drw x y n => Encoding.drw x y n
  | .skp x => Encoding.skp x
  | .sknp x => Encoding.sknp x
  | .ldVxDt x => Encoding.ldVxDt x
  | .ldVxK x => Encoding.ldVxK x
  | .ldDtVx x => Encoding.ldDtVx x
  | .ldStVx x => Encoding.ldStVx x
  | .addI x => Encoding.addI x
  | .ldF x => Encoding.ldF x
  | .ldB x => Encoding.ldB x
  | .stRegs x => Encoding.stRegs x
  | .ldRegs x => Encoding.ldRegs x

/-- A decoded word lies in the row of its instruction. -/
theorem row_of_decodeWord (h : decodeWord w = .ok i) :
    ∃ r ∈ opcodeMap, r.pattern = i.pattern ∧ r.covers w = true := by
  have hc := encode_coveredByPattern i
  rw [encodeOfDecodeIsTheWord w i h] at hc
  simpa [coveredByPattern] using hc

theorem opcodeMap_pattern_injective :
    ∀ r ∈ opcodeMap, ∀ r' ∈ opcodeMap, r.pattern = r'.pattern → r = r' := by
  decide

/-- Where both masks look, two rows' matches differ. -/
theorem opcodeMap_separated :
    ∀ r ∈ opcodeMap, ∀ r' ∈ opcodeMap, r.value &&& r'.mask = r'.value &&& r.mask → r = r' := by
  decide

/-- No word lies in two rows (30_encoding.md R53). -/
theorem row_unique (hr : r ∈ opcodeMap) (hr' : r' ∈ opcodeMap) (h : r.covers w = true)
    (h' : r'.covers w = true) : r = r' := by
  simp only [OpcodeRow.covers, beq_iff_eq] at h h'
  refine opcodeMap_separated r hr r' hr' ?_
  rw [← h, ← h', BitVec.and_assoc, BitVec.and_assoc, BitVec.and_comm r.mask]

/-- The decoder accepts exactly the words of the map (30_encoding.md R53, R59). -/
theorem decodes_iff_wordLegal : (∃ i, decodeWord w = .ok i) ↔ wordLegal w = true := by
  constructor
  · rintro ⟨i, h⟩
    obtain ⟨r, hr, -, hc⟩ := row_of_decodeWord h
    exact List.any_eq_true.2 ⟨r, hr, hc⟩
  · intro hl
    cases hd : decodeWord w with
    | ok i => exact ⟨i, rfl⟩
    | error e => exact absurd (wordLegal_eq_false_of_rejected hd) (by simp [hl])

/-- A row takes exactly the words that decode to its instruction (30_encoding.md R53). -/
theorem covers_iff_decodes (hr : r ∈ opcodeMap) :
    r.covers w = true ↔ ∃ i, decodeWord w = .ok i ∧ i.pattern = r.pattern := by
  constructor
  · intro hc
    obtain ⟨i, hd⟩ := decodes_iff_wordLegal.2 (List.any_eq_true.2 ⟨r, hr, hc⟩)
    obtain ⟨r', hr', hp, hc'⟩ := row_of_decodeWord hd
    exact ⟨i, hd, by rw [row_unique hr hr' hc hc', hp]⟩
  · rintro ⟨i, hd, hp⟩
    obtain ⟨r', hr', hp', hc'⟩ := row_of_decodeWord hd
    rwa [opcodeMap_pattern_injective r hr r' hr' (hp.symm.trans hp'.symm)]

/-- Settles O3: every decoded word lies in the row of its instruction, and in no other. -/
theorem decoderAgreesWithOpcodeMap : Obligations.DecoderAgreesWithOpcodeMap :=
  fun _ => ⟨fun _ hr => covers_iff_decodes hr, fun _ hr _ hr' => row_unique hr hr',
    decodes_iff_wordLegal⟩

end opcodeMap

section rejected
variable (w : Word)

/-- The family is the word's top digit (30_encoding.md R49). -/
theorem opField_toNat_eq_div : (opField w).toNat = w.toNat / 4096 := by
  rw [opField_toNat]
  omega

/-- In family 0 the word is its own selector NNN (30_encoding.md R54). -/
theorem decodeFamily0_rejects_iff (ho : w.toNat / 4096 = 0) :
    (∃ e, decodeFamily0 w = .error e) ↔ w.toNat ≠ 0x00E0 ∧ w.toNat ≠ 0x00EE := by
  have hn : (nnnField w).toNat = w.toNat := by rw [nnnField_toNat]; omega
  unfold decodeFamily0
  rw [hn]
  split <;> simp_all

theorem decodeFamily5_rejects_iff : (∃ e, decodeFamily5 w = .error e) ↔ w.toNat % 16 ≠ 0 := by
  unfold decodeFamily5
  rw [nField_toNat]
  split <;> simp_all

theorem decodeFamily8_rejects_iff :
    (∃ e, decodeFamily8 w = .error e) ↔
      w.toNat % 16 ∉ [0x0, 0x1, 0x2, 0x3, 0x4, 0x5, 0x6, 0x7, 0xE] := by
  unfold decodeFamily8
  rw [nField_toNat]
  split <;> simp_all

theorem decodeFamily9_rejects_iff : (∃ e, decodeFamily9 w = .error e) ↔ w.toNat % 16 ≠ 0 := by
  unfold decodeFamily9
  rw [nField_toNat]
  split <;> simp_all

theorem decodeFamilyE_rejects_iff :
    (∃ e, decodeFamilyE w = .error e) ↔ w.toNat % 256 ∉ [0x9E, 0xA1] := by
  unfold decodeFamilyE
  rw [nnField_toNat]
  split <;> simp_all

theorem decodeFamilyF_rejects_iff :
    (∃ e, decodeFamilyF w = .error e) ↔
      w.toNat % 256 ∉ [0x07, 0x0A, 0x15, 0x18, 0x1E, 0x29, 0x33, 0x55, 0x65] := by
  unfold decodeFamilyF
  rw [nnField_toNat]
  split <;> simp_all

/-- The nibbles that family 8 does not select with (30_encoding.md R56). -/
theorem family8_rejected_nibble :
    w.toNat % 16 ∉ [0x0, 0x1, 0x2, 0x3, 0x4, 0x5, 0x6, 0x7, 0xE] ↔
      w.toNat % 16 ∈ [0x8, 0x9, 0xA, 0xB, 0xC, 0xD, 0xF] := by
  simp only [List.mem_cons, List.not_mem_nil, or_false]
  omega

/-- Settles O4: families 0, 5, 8, 9, E and F reject by their selector, the others accept all. -/
theorem rejectedWordsByFamily : Obligations.RejectedWordsByFamily := by
  intro w
  unfold decodeWord
  rw [opField_toNat_eq_div]
  split
  next ho => rw [decodeFamily0_rejects_iff w ho]; simp [ho]
  next ho => simp [ho]
  next ho => simp [ho]
  next ho => simp [ho]
  next ho => simp [ho]
  next ho => rw [decodeFamily5_rejects_iff]; simp [ho]
  next ho => simp [ho]
  next ho => simp [ho]
  next ho => rw [decodeFamily8_rejects_iff, family8_rejected_nibble]; simp [ho]
  next ho => rw [decodeFamily9_rejects_iff]; simp [ho]
  next ho => simp [ho]
  next ho => simp [ho]
  next ho => simp [ho]
  next ho => simp [ho]
  next ho => rw [decodeFamilyE_rejects_iff]; simp [ho]
  next =>
    have ho : w.toNat / 4096 = 0xF := by simp only [imp_false] at *; omega
    rw [decodeFamilyF_rejects_iff]
    simp [ho]

end rejected

/-- Settles O5: each word is decoded by evaluation. -/
theorem vectorWordsDecode : Obligations.VectorWordsDecode :=
  ⟨rfl, rfl, rfl, rfl, rfl, rfl, rfl, rfl, rfl, rfl, rfl, rfl, rfl, rfl, rfl, rfl, rfl⟩

end Sys2Proof
end

section
/-! SUPPORT. The phases of a step (40_cycle.md R62-R70): what precedes execution, a halted engine,
the Step transaction, fault entry, the frame flag, the timers, and FX0A's poll. -/

namespace Sys2Proof.Machine

section running
variable {s t : State} {i : Instr}

theorem State.halted_eq_false_iff : s.halted = false ↔ s.faultCode = .noFault := by
  simp [State.halted]

/-- What a running engine's step can do: execute what was fetched, else take the unknown-instruction
fault (40_cycle.md R62, R68). -/
theorem step_running_cases (hrun : s.faultCode = .noFault) (h : step s = .next t) :
    (∃ i, decodeWord s.fetch = .ok i ∧ exec i s.beginStep = .next t) ∨
      ((∃ e, decodeWord s.fetch = .error e) ∧
        t = s.beginStep.takeFault .unknownInstruction s.fetch) := by
  rcases step_cases s h with ⟨hh, -⟩ | ⟨-, hexec⟩ | ⟨-, e, he, ht⟩
  · exact absurd hrun (State.halted_iff s |>.1 hh)
  · exact .inl hexec
  · exact .inr ⟨⟨e, he⟩, ht⟩

/-- Two bytes that decode are a word that decodes (20_memory.md R40). -/
theorem decodeWord_of_decodeBytes {hi lo : Byte} (h : decodeBytes [hi, lo] = .ok (i, [])) :
    decodeWord (joinBytes hi lo) = .ok i := by
  unfold decodeBytes at h
  cases hd : decodeWord (joinBytes hi lo) <;> simp_all

theorem countDown_eq_ite (b : Byte) : countDown b = if b ≠ 0 then b - 1 else b := by
  unfold countDown
  split_ifs <;> simp_all

/-- The state an instruction executes in, field by field (40_cycle.md R64, R65, R67). -/
theorem State.beginStep_fields (s : State) :
    s.beginStep = { s with
      fc := false
      tc := if s.tc - 1 = 0 then s.divider else s.tc - 1
      dt := if s.tc - 1 = 0 ∧ s.dt ≠ 0 then s.dt - 1 else s.dt
      st := if s.tc - 1 = 0 ∧ s.st ≠ 0 then s.st - 1 else s.st
      pc := s.pc + 2 } := by
  by_cases hdue : s.tc - 1 = 0
  · simp [State.setFc, State.timerTick, State.setPc, State.tickDue, countDown_eq_ite, hdue]
  · simp [State.setFc, State.timerTick, State.setPc, State.tickDue, hdue]

/-- Settles O6. -/
theorem stepRunsTheDecodedInstruction : Obligations.StepRunsTheDecodedInstruction := by
  intro s i hrun hdec
  rw [step_decoded s (State.halted_eq_false_iff.2 hrun) (decodeWord_of_decodeBytes hdec),
    State.beginStep_fields]

end running

section stepTransaction
variable {s t : State} {b : Byte}

/-- The Step transaction puts the random input back and replies with the fault code that its step
leaves (60_exceptions.md R123). -/
theorem State.hostStep_of_step (h : step (s.setRndIn [b]) = .next t) :
    s.hostStep b = (t.setRndIn s.rndIn, .stepped t.faultCode.code) := by
  simp only [State.hostStep, h]

/-- A load leaves the fault code alone, whether or not it is taken (60_exceptions.md R124, R125). -/
theorem State.hostLoad_faultCode (s : State) (bytes : List Byte) :
    (s.hostLoad bytes).1.faultCode = s.faultCode := by
  unfold State.hostLoad
  split <;> rfl

/-- The Step transaction of a halted engine changes nothing (40_cycle.md R63). -/
theorem State.hostStep_halted (hh : s.halted = true) (b : Byte) :
    s.hostStep b = (s, .stepped s.faultCode.code) :=
  State.hostStep_of_step (t := s.setRndIn [b]) (step_halted _ hh)

/-- Settles O8, by the case of each transaction. -/
theorem haltedEngineStaysHalted : Obligations.HaltedEngineStaysHalted := by
  intro s hf
  have hh : s.halted = true := (State.halted_iff s).2 hf
  refine ⟨step_halted s hh, State.hostStep_halted hh, fun q hq => ?_, rfl⟩
  cases q with
  | reset => exact absurd rfl hq
  | load bytes => exact State.hostLoad_faultCode s bytes
  | step rnd => exact congrArg (fun r => r.1.faultCode) (State.hostStep_halted hh rnd)
  | keyDown | keyUp | readFrame | readSound | readFault => rfl

/-- An instruction draws no free value while a random byte is presented (60_exceptions.md R121). -/
theorem exec_draws_presented {i : Instr} (hr : s.rndIn ≠ []) (h : exec i s = .next t) :
    t.draws = s.draws := by
  cases i with
  | rnd x nn =>
    cases h
    rw [State.setReg_draws, State.takeRandom_draws, if_neg hr]
  | _ => exact exec_touches h .draws (by simp [MayWrite, FaultPart, BytesFrom])

theorem step_draws_presented (hr : s.rndIn ≠ []) (h : step s = .next t) : t.draws = s.draws := by
  rcases step_cases s h with ⟨-, rfl⟩ | ⟨-, i, -, hi⟩ | ⟨-, e, -, rfl⟩
  · rfl
  · exact exec_draws_presented (s := s.beginStep) hr hi
  · rfl

/-- Settles O28: the step with the byte presented answers a next state, which a CXNN reaches by
taking that byte. -/
theorem stepTransactionFeedsRnd : Obligations.StepTransactionFeedsRnd := by
  intro s b
  constructor
  · obtain ⟨t, ht⟩ := everyStepAnswersANextState (s.setRndIn [b])
    exact ⟨t, ht, step_draws_presented (s := s.setRndIn [b]) (by simp) ht,
      State.hostStep_of_step ht⟩
  · intro x nn hrun hd
    have hstep := step_decoded (s.setRndIn [b]) (State.halted_eq_false_iff.2 hrun) hd
    refine ⟨_, (State.hostStep_of_step hstep).trans (Prod.ext rfl ?_), ?_, rfl, rfl⟩
    · exact congrArg (fun c => Reply.stepped (FaultCode.code c)) hrun
    · exact (State.setReg_read _ x x _).trans (if_pos rfl)

end stepTransaction

section faultEntry
variable {s t : State}

/-- `t` is what a precise fault makes of `s`: the record tells the fetch, and otherwise only the
phases before execution happened (60_exceptions.md R111). -/
structure PreciseEntry (s t : State) : Prop where
  faultPc : t.faultPc = s.pc
  faultWord : t.faultWord = s.fetch
  pc : t.pc = s.pc + 2
  fc : t.fc = false
  tc : t.tc = s.timerTick.tc
  dt : t.dt = s.timerTick.dt
  st : t.st = s.timerTick.st
  frame : OnlyTouches
    (fun p => p = .frameFlag ∨ p = .tc ∨ p = .dt ∨ p = .st ∨ p = .pc ∨ FaultPart p) s t

/-- A fault taken with the fetched word after the phases before execution is precise: the PC advance
is undone in FAULT_PC. -/
theorem State.beginStep_takeFault_precise (s : State) (c : FaultCode) :
    PreciseEntry s (s.beginStep.takeFault c s.fetch) where
  faultPc := BitVec.add_sub_cancel s.pc 2
  faultWord := rfl
  pc := rfl
  fc := rfl
  tc := rfl
  dt := rfl
  st := rfl
  frame := ((State.beginStep_touches s).trans (State.setFault_touches _ _ _ _)).mono
    fun p hp => by simpa only [or_assoc] using hp

/-- A fault that an instruction takes in a step is taken with the fetched word, because encoding a
decoded word gives the word back; an illegal word's fault is taken with it too. -/
theorem step_faulted (hrun : s.faultCode = .noFault) (h : step s = .next t)
    (hf : t.faultCode ≠ .noFault) : ∃ c, t = s.beginStep.takeFault c s.fetch := by
  rcases step_running_cases hrun h with ⟨i, hd, hi⟩ | ⟨-, ht⟩
  · rcases exec_fault_cases hi with ⟨hc, -, -⟩ | ⟨c, -, ht⟩
    · exact absurd (hc.trans hrun) hf
    · exact ⟨c, encodeOfDecodeIsTheWord _ i hd ▸ ht⟩
  · exact ⟨_, ht⟩

theorem step_faulted_precise (hrun : s.faultCode = .noFault) (h : step s = .next t)
    (hf : t.faultCode ≠ .noFault) : PreciseEntry s t := by
  obtain ⟨c, rfl⟩ := step_faulted hrun h hf
  exact s.beginStep_takeFault_precise c

/-- A word outside the opcode map is rejected (30_encoding.md R59). -/
theorem rejected_of_not_wordLegal {w : Word} (h : wordLegal w = false) :
    ∃ e, decodeWord w = .error e := by
  cases hd : decodeWord w with
  | ok i => exact absurd (decodes_iff_wordLegal.1 ⟨i, hd⟩) (by simp [h])
  | error e => exact ⟨e, rfl⟩

/-- Settles O9. -/
theorem illegalWordTakesUnknownInstruction : Obligations.IllegalWordTakesUnknownInstruction := by
  intro s hrun hw
  obtain ⟨e, he⟩ := rejected_of_not_wordLegal hw
  have hp := s.beginStep_takeFault_precise .unknownInstruction
  exact ⟨_, step_unknown s (State.halted_eq_false_iff.2 hrun) he, rfl, rfl, hp.faultPc,
    hp.faultWord, hp.pc, hp.fc, hp.tc, hp.dt, hp.st, hp.frame⟩

/-- Settles O10. -/
theorem faultEntryIsPrecise : Obligations.FaultEntryIsPrecise := by
  intro s t hrun h hf
  have hp := step_faulted_precise hrun h hf
  exact ⟨hp.faultPc, hp.faultWord, (State.halted_iff t).2 hf, hp.pc, hp.fc, hp.tc, hp.dt, hp.st,
    hp.frame⟩

end faultEntry

section frameFlag
variable {s t : State} {i : Instr}

theorem mayWrite_frameFlag (h : MayWrite i s .frameFlag) :
    i = .cls ∨ ∃ x y n, i = .drw x y n := by
  cases i <;> simp [MayWrite, FaultPart, BytesFrom] at h ⊢

/-- With FC cleared before it, an instruction leaves FC = 1 iff it is 00E0 or DXYN
(40_cycle.md R64). -/
theorem exec_fc_iff (hfc : s.fc = false) (h : exec i s = .next t) :
    t.fc = true ↔ i = .cls ∨ ∃ x y n, i = .drw x y n := by
  constructor
  · intro ht
    by_contra hi
    have hkeep : t.fc = s.fc := exec_touches h .frameFlag fun hw => hi (mayWrite_frameFlag hw)
    simp [hkeep, hfc] at ht
  · rintro (rfl | ⟨x, y, n, rfl⟩) <;> (cases h; rfl)

/-- Settles O12: FC is clear when the instruction executes, and a fault entry leaves it so. -/
theorem frameFlagIffClearOrDraw : Obligations.FrameFlagIffClearOrDraw := by
  intro s t hrun h
  refine ⟨?_, fun hf => (step_faulted_precise hrun h hf).fc⟩
  rcases step_running_cases hrun h with ⟨i, hd, hi⟩ | ⟨⟨e, he⟩, rfl⟩
  · simp only [exec_fc_iff (s := s.beginStep) rfl hi, hd, Except.ok.injEq]
  · simp [he]

end frameFlag

section timerTicks
variable {s t : State} {i : Instr}

theorem mayWrite_dt (h : MayWrite i s .dt) : ∃ x, i = .ldDtVx x := by
  cases i <;> simp [MayWrite, FaultPart, BytesFrom] at h ⊢

theorem mayWrite_st (h : MayWrite i s .st) : ∃ x, i = .ldStVx x := by
  cases i <;> simp [MayWrite, FaultPart, BytesFrom] at h ⊢

/-- The timers and their counter in `t` are as one tick leaves those of `s` (40_cycle.md R65). -/
def TimersTickedOnce (s t : State) : Prop :=
  t.dt = s.timerTick.dt ∧ t.st = s.timerTick.st ∧ t.tc = s.timerTick.tc ∧ t.divider = s.divider

/-- A running engine's step that writes no timer ticks them once, whatever it executes
(40_cycle.md R65). -/
theorem step_ticksOnce (hrun : s.faultCode = .noFault)
    (hno : ∀ x, decodeWord s.fetch ≠ .ok (.ldDtVx x) ∧ decodeWord s.fetch ≠ .ok (.ldStVx x))
    (h : step s = .next t) : TimersTickedOnce s t := by
  rcases step_running_cases hrun h with ⟨i, hd, hi⟩ | ⟨-, rfl⟩
  · refine ⟨exec_touches hi .dt fun hw => ?_, exec_touches hi .st fun hw => ?_,
      exec_tc (s := s.beginStep) hi, exec_divider (s := s.beginStep) hi⟩
    · obtain ⟨x, rfl⟩ := mayWrite_dt hw
      exact (hno x).1 hd
    · obtain ⟨x, rfl⟩ := mayWrite_st hw
      exact (hno x).2 hd
  · exact ⟨rfl, rfl, rfl, rfl⟩

/-- A tick before the counter runs out only counts (40_cycle.md R65). -/
theorem TimersTickedOnce.counted (h : TimersTickedOnce s t) (htc : 1 < s.tc) :
    t.dt = s.dt ∧ t.st = s.st ∧ t.tc = s.tc - 1 ∧ t.divider = s.divider := by
  have hdue : ¬ s.tickDue = true := fun hd => absurd (s.tickDue_iff.1 hd) (by omega)
  simpa only [TimersTickedOnce, State.timerTick_dt, State.timerTick_st, State.timerTick_tc,
    if_neg hdue] using h

/-- The tick that runs the counter out decrements both timers and fills it (40_cycle.md R65). -/
theorem TimersTickedOnce.decremented (h : TimersTickedOnce s t) (htc : s.tc = 1) :
    t.dt.toNat = s.dt.toNat - 1 ∧ t.st.toNat = s.st.toNat - 1 ∧ t.tc = s.divider ∧
      t.divider = s.divider := by
  have hdue : s.tickDue = true := s.tickDue_iff.2 htc.le
  simp only [TimersTickedOnce, State.timerTick_dt, State.timerTick_st, State.timerTick_tc,
    if_pos hdue] at h
  obtain ⟨hdt, hst, htc', hdiv⟩ := h
  exact ⟨hdt ▸ countDown_toNat _, hst ▸ countDown_toNat _, htc', hdiv⟩

/-- The timers after `n` steps without a timer write, from a state whose counter was full `e` steps
before: the counter tells how far the next decrement is (40_cycle.md R65). -/
theorem RunsWithoutTimerWrites.timers {d n e : Nat} (hsteps : RunsWithoutTimerWrites n s t)
    (hdiv : s.divider = d) (he : e < d) (htc : s.tc = d - e) :
    t.dt.toNat = s.dt.toNat - (e + n) / d ∧ t.st.toNat = s.st.toNat - (e + n) / d ∧
      t.tc = d - (e + n) % d ∧ t.divider = d := by
  induction n generalizing s e with
  | zero =>
    cases hsteps
    rw [Nat.add_zero, Nat.div_eq_of_lt he, Nat.mod_eq_of_lt he]
    exact ⟨rfl, rfl, htc, hdiv⟩
  | succ n ih =>
    obtain ⟨hs, hno, u, hu, hsteps⟩ := hsteps
    have htick := step_ticksOnce hs hno hu
    rcases Nat.lt_or_eq_of_le (Nat.succ_le_of_lt he) with hlt | hlast
    · obtain ⟨hdt, hst, hutc, hudiv⟩ := htick.counted (by omega)
      have hrest := ih hsteps (hudiv.trans hdiv) hlt (by omega)
      rwa [hdt, hst, Nat.succ_add_eq_add_succ] at hrest
    · obtain ⟨hdt, hst, hutc, hudiv⟩ := htick.decremented (by omega)
      have hrest := ih hsteps (hudiv.trans hdiv) (Nat.zero_lt_of_lt he) (hutc.trans hdiv)
      have hround : e + (n + 1) = n + d := by omega
      rw [Nat.zero_add, hdt, hst, Nat.sub_sub, Nat.sub_sub, Nat.add_comm 1] at hrest
      rwa [hround, Nat.add_div_right n (Nat.zero_lt_of_lt he), Nat.add_mod_right]

/-- Settles O13: the case in which the counter is full now. -/
theorem timersDecrementOncePerDivider : Obligations.TimersDecrementOncePerDivider := by
  intro n s t hd htc hsteps
  simpa using hsteps.timers rfl hd htc

end timerTicks

section waitForKey
variable {s t : State} {x : RegIdx}

/-- A number of format `XK` or `XS` as the word it stands for (30_encoding.md R49). -/
theorem ofNat_eq_encodeXK (op : BitVec 4) (x : RegIdx) (nn : Byte) :
    BitVec.ofNat 16 (op.toNat * 4096 + nn.toNat + x.val * 256) = encodeXK op x nn := by
  apply BitVec.eq_of_toNat_eq
  rw [BitVec.toNat_ofNat, encodeXK_toNat]
  omega

theorem decodeWord_ldVxK (x : RegIdx) :
    decodeWord (BitVec.ofNat 16 (0xF00A + x.val * 256)) = .ok (.ldVxK x) :=
  (congrArg decodeWord (ofNat_eq_encodeXK 0xF x 0x0A)).trans (decodeWord_encode (.ldVxK x))

/-- FX0A's rewind as a number, mod 2^16 (46_timer_key.md R104). -/
theorem State.rewindPc_pc_toNat (s : State) :
    (s.rewindPc.pc.toNat : Int) = ((s.pc.toNat : Int) - 2) % 65536 := by
  have hlt := s.pc.isLt
  rw [State.rewindPc_eq, State.setPc_pc, BitVec.toNat_sub, show (2 : Word).toNat = 2 from rfl]
  omega

/-- A key's number fits the register it is read into (46_timer_key.md R104). -/
theorem State.setReg_key_toNat (s : State) (x : RegIdx) (k : KeyIdx) :
    ((s.setReg x (BitVec.ofNat 8 k.val)).v[x]).toNat = k.val := by
  rw [State.setReg_read, if_pos rfl, BitVec.toNat_ofNat]
  omega

/-- Some key is down iff there is a lowest one (46_timer_key.md R104). -/
theorem State.exists_key_iff : (∃ k : KeyIdx, s.keys[k] = true) ↔ s.lowestKey ≠ none := by
  simp [State.lowestKey_eq_none_iff]

/-- One poll of FX0A: it goes back with no key down, and stays past the instruction and reads the
lowest key otherwise (46_timer_key.md R104). -/
theorem exec_ldVxK_poll (h : exec (.ldVxK x) s = .next t) :
    ((∀ k : KeyIdx, s.keys[k] = false) → t.pc = s.pc - 2 ∧ t.v = s.v) ∧
    ((∃ k : KeyIdx, s.keys[k] = true) → t.pc = s.pc ∧ ∃ k : KeyIdx,
      s.keys[k] = true ∧ t.v[x].toNat = k.val ∧ ∀ j < k, s.keys[j] = false) := by
  rw [← State.lowestKey_eq_none_iff, State.exists_key_iff]
  rcases exec_ldVxK_cases h with ⟨k, hk, rfl⟩ | ⟨hk, rfl⟩
  · obtain ⟨hdown, hlow⟩ := (State.lowestKey_eq_some_iff s k).1 hk
    exact ⟨fun hnone => by simp [hk] at hnone,
      fun _ => ⟨rfl, k, hdown, State.setReg_key_toNat s x k, hlow⟩⟩
  · exact ⟨fun _ => ⟨rfl, rfl⟩, fun hsome => absurd hk hsome⟩

/-- Settles O54: the poll alone, and after the phases before execution. -/
theorem waitForKeyPolls : Obligations.WaitForKeyPolls := by
  intro x
  refine ⟨decodeWord_ldVxK x, fun s => ⟨fun hnone => ?_, fun k hk hlow => ?_, fun hrun hd => ?_⟩⟩
  · exact ⟨_, exec_ldVxK_wait (s.lowestKey_eq_none_iff.2 hnone), s.rewindPc_pc_toNat,
      s.setPc_touches _⟩
  · exact ⟨_, exec_ldVxK_key ((s.lowestKey_eq_some_iff k).2 ⟨hk, hlow⟩), s.setReg_key_toNat x k,
      s.setReg_touches x _⟩
  · obtain ⟨t, ht⟩ := exec_next (.ldVxK x) s.beginStep
    obtain ⟨hwait, hread⟩ := exec_ldVxK_poll ht
    have hkeep : ∀ p : Part, p ≠ .reg x → p ≠ .pc → p.Agrees s.beginStep t :=
      fun p hreg hpc => exec_touches ht p (not_or.2 ⟨hreg, hpc⟩)
    refine ⟨t, (step_decoded s (State.halted_eq_false_iff.2 hrun) hd).trans ht, fun hnone => ?_,
      hread, hkeep .frameFlag nofun nofun, hkeep .tc nofun nofun, hkeep .dt nofun nofun,
      hkeep .st nofun nofun⟩
    obtain ⟨hpc, hv⟩ := hwait hnone
    exact ⟨hpc.trans (BitVec.add_sub_cancel s.pc 2), hv⟩

end waitForKey

end Sys2Proof.Machine
end

section
/-! SUPPORT. What 00E0 and DXYN leave in the grid, VF and FC (41_display.md R71, R72). -/

namespace Sys2Proof.Machine

section sprite
variable (s : State) (x0 y0 n : Nat)

/-- The draw's loops, started at the sprite's first row and column, draw the bits of the sprite
at I. -/
theorem State.spriteAt_eq_spriteCell (x y : Nat) : s.spriteAt x0 y0 n x y =
    spriteCell (fun r => s.readByte (s.indexAddr r)) x0 y0 n 0 x y := by
  have hclip : (x < 64 ∧ y < 32 ∧ x0 ≤ x ∧ x < x0 + 8 ∧ y0 ≤ y ∧ y < y0 + n) ↔
      (y0 + 0 ≤ y ∧ y < y0 + 0 + n ∧ y < 32) ∧ (x0 + 0 ≤ x ∧ x < x0 + 0 + 8 ∧ x < 64) := by
    omega
  simp only [State.spriteAt, spriteCell, rowBit, spriteBit, State.indexAddr, hclip,
    Bool.decide_and, Bool.and_assoc]

theorem State.drawSprite_pixel (x y : Nat) : (s.drawSprite x0 y0 n).grid.pixel x y =
    (s.grid.pixel x y ^^ s.spriteAt x0 y0 n x y) := by
  rw [State.drawSprite, Canvas.drawRows_pixel, State.spriteAt_eq_spriteCell]

theorem State.drawSprite_hit : (s.drawSprite x0 y0 n).hit = true ↔
    ∃ x y, s.grid.pixel x y = true ∧ s.spriteAt x0 y0 n x y = true := by
  simp only [State.drawSprite, Canvas.drawRows_hit, State.spriteAt_eq_spriteCell,
    Bool.false_eq_true, false_or, and_comm]

/-- The sprite that is drawn depends on memory and I alone. -/
theorem State.spriteAt_congr {s t : State} (hi : t.i = s.i)
    (hmem : ∀ a, t.readByte a = s.readByte a) :
    t.spriteAt x0 y0 n = s.spriteAt x0 y0 n := by
  funext x y
  simp only [State.spriteAt, hi, hmem]

end sprite

section draw
variable {s t : State} {x y : RegIdx} {n : BitVec 4}

theorem flagByte_eq_one_or_zero (f : Bool) : flagByte f = 1 ∨ flagByte f = 0 := by
  cases f
  · exact .inr rfl
  · exact .inl rfl

theorem flagByte_eq_one_iff (f : Bool) : flagByte f = 1 ↔ f = true := by
  cases f <;> decide

/-- The bit that DXYN's sprite has for a cell of the grid, its start cell reduced mod the grid's
size (41_display.md R72). -/
def State.drwBit (s : State) (x y : RegIdx) (n : BitVec 4) : Nat → Nat → Bool :=
  s.spriteAt (s.v[x].toNat % 64) (s.v[y].toNat % 32) n.toNat

theorem exec_drw_pixel (h : exec (.drw x y n) s = .next t) (cx cy : Nat) :
    t.grid.pixel cx cy = (s.grid.pixel cx cy ^^ s.drwBit x y n cx cy) := by
  cases h
  exact s.drawSprite_pixel ..

/-- DXYN leaves the draw's collision in VF, also where VF gives the start cell
(41_display.md R72). -/
theorem exec_drw_flag (h : exec (.drw x y n) s = .next t) : t.v[15] =
    flagByte (s.drawSprite (s.v[x].toNat % 64) (s.v[y].toNat % 32) n.toNat).hit := by
  cases h
  exact (s.setReg_read 15 15 _).trans (if_pos rfl)

theorem exec_drw_flag_iff (h : exec (.drw x y n) s = .next t) : t.v[15] = 1 ↔
    ∃ cx cy, s.grid.pixel cx cy = true ∧ s.drwBit x y n cx cy = true := by
  rw [exec_drw_flag h, flagByte_eq_one_iff, State.drawSprite_hit]
  rfl

/-- A draw whose start cell is not in VF leaves the next draw the same sprite at the same cell. -/
theorem exec_drw_drwBit (hx : x ≠ 15) (hy : y ≠ 15) (h : exec (.drw x y n) s = .next t) :
    t.drwBit x y n = s.drwBit x y n := by
  have hkeep : ∀ p : Part, p ≠ .reg 15 → (∀ cx cy, p ≠ .pixel cx cy) → p ≠ .frameFlag →
      p.Agrees s t := fun p hreg hpix hfc =>
    exec_touches h p (by simp [MayWrite, hreg, hpix, hfc])
  have hvx : t.v[x] = s.v[x] := hkeep (.reg x) (by simpa using hx) nofun nofun
  have hvy : t.v[y] = s.v[y] := hkeep (.reg y) (by simpa using hy) nofun nofun
  rw [State.drwBit, State.drwBit, hvx, hvy]
  exact State.spriteAt_congr _ _ _ (hkeep .addressReg nofun nofun nofun)
    fun a => hkeep (.byte a) nofun nofun nofun

end draw

/-- A number of format `XYN` as the word it stands for (30_encoding.md R49). -/
theorem ofNat_eq_encodeXYN (op : BitVec 4) (x y : RegIdx) (n : BitVec 4) :
    BitVec.ofNat 16 (op.toNat * 4096 + x.val * 256 + y.val * 16 + n.toNat) =
      encodeXYN op x y n := by
  apply BitVec.eq_of_toNat_eq
  rw [BitVec.toNat_ofNat, encodeXYN_toNat]
  omega

theorem decodeWord_drw (x y : RegIdx) (n : BitVec 4) :
    decodeWord (BitVec.ofNat 16 (0xD000 + x.val * 256 + y.val * 16 + n.toNat)) =
      .ok (.drw x y n) :=
  (congrArg decodeWord (ofNat_eq_encodeXYN 0xD x y n)).trans (decodeWord_encode (.drw x y n))

/-- Settles O32: the cleared grid has no pixel set, and the frame is the instruction's. -/
theorem clsClearsEveryCell : Obligations.ClsClearsEveryCell :=
  ⟨rfl, fun s => ⟨_, rfl, fun x y _ _ => Grid.pixel_clear x y, rfl,
    exec_touches (i := .cls) (s := s) rfl⟩⟩

/-- Settles O33: the draw's loops XOR `spriteAt` into the grid and collide where it meets a set
pixel. -/
theorem drwXorsTheSpriteAndReportsCollision :
    Obligations.DrwXorsTheSpriteAndReportsCollision := by
  intro x y n
  refine ⟨decodeWord_drw x y n, fun s => ?_⟩
  obtain ⟨t, ht⟩ := exec_next (.drw x y n) s
  refine ⟨t, ht, exec_drw_pixel ht, ?_, exec_drw_flag_iff ht, ?_, exec_touches ht⟩
  · exact exec_drw_flag ht ▸ flagByte_eq_one_or_zero _
  · cases ht
    rfl

/-- Settles O34: the second draw XORs the same bits again, and a bit meets a set pixel in it iff the
first draw turned that pixel on. -/
theorem drawingTwiceRestoresTheGrid : Obligations.DrawingTwiceRestoresTheGrid := by
  intro s t u x y n hx hy hst htu
  have hbit := exec_drw_drwBit hx hy hst
  constructor
  · refine Grid.ext_pixel fun cx cy _ _ => ?_
    rw [exec_drw_pixel htu, exec_drw_pixel hst, hbit, Bool.xor_assoc, Bool.xor_self, Bool.xor_false]
  · have hcell : ∀ cx cy, (t.grid.pixel cx cy = true ∧ t.drwBit x y n cx cy = true) ↔
        (s.grid.pixel cx cy = false ∧ t.grid.pixel cx cy = true) := by
      intro cx cy
      rw [exec_drw_pixel hst, hbit]
      cases s.grid.pixel cx cy <;> simp
    simp only [exec_drw_flag_iff htu, hcell]

end Sys2Proof.Machine
end

section
/-! SUPPORT. Where the jumps, the call and the return go, and what they leave of the stack
(42_flow.md R73-R76). -/

namespace Sys2Proof.Machine

/-- A number of format `A` as the word it stands for (30_encoding.md R49). -/
theorem ofNat_eq_encodeA (op : BitVec 4) (nnn : Addr12) :
    BitVec.ofNat 16 (op.toNat * 4096 + nnn.toNat) = encodeA op nnn := by
  rw [← encodeA_toNat, BitVec.ofNat_toNat, BitVec.setWidth_eq]

section flow
variable {s : State}

/-- Settles O35: each jump is one write of PC. -/
theorem jumpsSetPc : Obligations.JumpsSetPc := fun nnn =>
  ⟨(congrArg decodeWord (ofNat_eq_encodeA 0x1 nnn)).trans (decodeWord_encode (.jp nnn)),
    (congrArg decodeWord (ofNat_eq_encodeA 0xB nnn)).trans (decodeWord_encode (.jpV0 nnn)),
    fun s => ⟨⟨_, rfl, zext16_toNat nnn, s.setPc_touches _⟩,
      ⟨_, rfl, offsetTarget_toNat nnn s.v[0], s.setPc_touches _⟩⟩⟩

/-- The push writes the slot that SP named (42_flow.md R75). -/
theorem State.pushPc_top (h : s.sp.val < 16) : (s.pushPc h).stack[s.sp.val] = s.pc :=
  Vector.getElem_set_self h

theorem State.pushPc_setPc_touches (h : s.sp.val < 16) (w : Word) :
    OnlyTouches (fun p => p = .slot ⟨s.sp.val, h⟩ ∨ p = .sp ∨ p = .pc) s ((s.pushPc h).setPc w) :=
  ((s.pushPc_touches h).trans (State.setPc_touches _ w)).mono fun _ => or_assoc.1

/-- Settles O36: the push and the jump, or the fault record, by what SP is. -/
theorem callPushesOrOverflows : Obligations.CallPushesOrOverflows := by
  intro nnn
  refine ⟨(congrArg decodeWord (ofNat_eq_encodeA 0x2 nnn)).trans (decodeWord_encode (.call nnn)),
    fun s => ⟨fun j hj => ?_, fun hfull => ?_⟩⟩
  · have hs : s.sp.val < 16 := hj ▸ j.isLt
    obtain rfl : j = ⟨s.sp.val, hs⟩ := Fin.ext hj
    exact ⟨_, exec_call_push hs, State.pushPc_top hs, rfl, zext16_toNat nnn,
      State.pushPc_setPc_touches hs _⟩
  · exact ⟨_, exec_call_overflow hfull, rfl, rfl, encodeA_toNat 0x2 nnn, s.setFault_touches _ _ _⟩

/-- Settles O37: the pop, or the fault record, by what SP is. -/
theorem retPopsOrUnderflows : Obligations.RetPopsOrUnderflows := by
  refine ⟨decodeWord_encode .ret, fun s => ⟨fun j hj => ?_, fun hempty => ?_⟩⟩
  · have hs : 0 < s.sp.val := hj ▸ Nat.succ_pos j.val
    have htop : s.sp.val - 1 = j.val := Nat.sub_eq_of_eq_add hj
    refine ⟨_, exec_ret_pop hs, ?_, htop, s.popPc_touches hs⟩
    simp only [State.popPc_pc, htop, Fin.getElem_fin]
  · exact ⟨_, exec_ret_underflow hempty, rfl, rfl, rfl, s.setFault_touches _ _ _⟩

/-- A pop undoes the push before it, whatever PC was in between, but for the slot's value, which
stays (10_state.md R21). -/
theorem State.popPc_pushPc_touches (h : s.sp.val < 16) (w : Word)
    (hpos : 0 < ((s.pushPc h).setPc w).sp.val) :
    OnlyTouches (fun p => p = .slot ⟨s.sp.val, h⟩) s (((s.pushPc h).setPc w).popPc hpos) := by
  intro p hp
  cases p with
  | pc => exact State.pushPc_top h
  | slot j => exact State.pushPc_touches s h (.slot j) (not_or.2 ⟨hp, nofun⟩)
  | _ => rfl

/-- Settles O38: with a slot free the call pushes, and the return pops what it pushed. -/
theorem callThenReturnIsBalanced : Obligations.CallThenReturnIsBalanced := by
  intro s t nnn hs hcall
  obtain rfl : t = (s.pushPc hs).setPc (zext16 nnn) :=
    Host.Outcome.next.inj (hcall.symm.trans (exec_call_push hs))
  exact ⟨_, exec_ret_pop (Nat.succ_pos s.sp.val),
    (State.popPc_pushPc_touches hs (zext16 nnn + 2) _).mono fun _ hp => ⟨⟨s.sp.val, hs⟩, rfl, hp⟩⟩

end flow

end Sys2Proof.Machine
end

section
/-! SUPPORT. What a skip does to PC, and the illegal words of the families whose low nibble must be
0 (43_skip.md R77-R83). -/

namespace Sys2Proof.Machine

section skips
variable {s : State} {i : Instr} {c : Bool} {p : Prop} [Decidable p]

/-- PC after a conditional skip, mod 2^16 (43_skip.md R77). -/
theorem State.skipIf_pc_toNat (s : State) (hc : c = true ↔ p) :
    (s.skipIf c).pc.toNat = if p then (s.pc.toNat + 2) % 65536 else s.pc.toNat := by
  rw [State.skipIf_eq, State.setPc_pc, apply_ite BitVec.toNat, BitVec.toNat_add]
  exact if_congr hc rfl rfl

/-- An instruction that is one conditional skip, its condition read as a proposition. -/
theorem exec_skips_when (hi : exec i s = .next (s.skipIf c)) (hc : c = true ↔ p) :
    ∃ t, exec i s = .next t ∧
      t.pc.toNat = (if p then (s.pc.toNat + 2) % 65536 else s.pc.toNat) ∧
      OnlyTouches (fun q => q = .pc) s t :=
  ⟨_, hi, s.skipIf_pc_toNat hc, s.skipIf_touches c⟩

theorem exec_skips_unless (hi : exec i s = .next (s.skipIf c)) (hc : c = true ↔ ¬ p) :
    ∃ t, exec i s = .next t ∧
      t.pc.toNat = (if p then s.pc.toNat else (s.pc.toNat + 2) % 65536) ∧
      OnlyTouches (fun q => q = .pc) s t :=
  ite_not p _ _ ▸ exec_skips_when hi hc

end skips

/-- A number of format `XK`, its digits in the order they are written (30_encoding.md R49). -/
theorem ofNat_digits_eq_encodeXK (op : BitVec 4) (x : RegIdx) (nn : Byte) :
    BitVec.ofNat 16 (op.toNat * 4096 + x.val * 256 + nn.toNat) = encodeXK op x nn :=
  (congrArg (BitVec.ofNat 16) (Nat.add_right_comm _ _ _)).trans (ofNat_eq_encodeXK op x nn)

/-- A word of format `XK` as a number, family and NN before X: the word a faulting key skip records
(30_encoding.md R57, 43_skip.md R82). -/
theorem encodeXK_toNat_comm (op : BitVec 4) (x : RegIdx) (nn : Byte) :
    (encodeXK op x nn).toNat = op.toNat * 4096 + nn.toNat + x.val * 256 := by
  rw [encodeXK_toNat]
  omega

/-- A word of family 5 or 9 is an instruction only with a low nibble of 0 (30_encoding.md R55). -/
theorem not_wordLegal_of_family5_or_9 {w : Word} (hop : w.toNat / 4096 = 5 ∨ w.toNat / 4096 = 9)
    (hn : w.toNat % 16 ≠ 0) : wordLegal w = false := by
  have hrejected : ∃ e, decodeWord w = .error e :=
    (rejectedWordsByFamily w).2 (.inr (hop.elim (fun h5 => .inl ⟨h5, hn⟩)
      fun h9 => .inr (.inl ⟨h9, hn⟩)))
  exact hrejected.elim fun _ he => wordLegal_eq_false_of_rejected he

theorem not_wordLegal_of_low_nibble {op n : Nat} (hop : op = 5 ∨ op = 9) (x y : RegIdx)
    (hn : 0 < n) (hlt : n < 16) :
    wordLegal (BitVec.ofNat 16 (op * 4096 + x.val * 256 + y.val * 16 + n)) = false := by
  apply not_wordLegal_of_family5_or_9 <;> rw [BitVec.toNat_ofNat] <;> omega

/-- Settles O39: each is one conditional skip, on the equality of VX and NN. -/
theorem skipOnImmediate : Obligations.SkipOnImmediate := fun x nn =>
  ⟨(congrArg decodeWord (ofNat_digits_eq_encodeXK 0x3 x nn)).trans
      (decodeWord_encode (.seImm x nn)),
    (congrArg decodeWord (ofNat_digits_eq_encodeXK 0x4 x nn)).trans
      (decodeWord_encode (.sneImm x nn)),
    fun _ => ⟨exec_skips_when rfl beq_iff_eq, exec_skips_unless rfl bne_iff_ne⟩⟩

/-- Settles O40: each is one conditional skip, on the equality of VX and VY. -/
theorem skipOnRegisters : Obligations.SkipOnRegisters := fun x y =>
  ⟨(congrArg decodeWord (ofNat_eq_encodeXYN 0x5 x y 0)).trans (decodeWord_encode (.seReg x y)),
    (congrArg decodeWord (ofNat_eq_encodeXYN 0x9 x y 0)).trans (decodeWord_encode (.sneReg x y)),
    fun _ hn hlt => ⟨not_wordLegal_of_low_nibble (.inl rfl) x y hn hlt,
      not_wordLegal_of_low_nibble (.inr rfl) x y hn hlt⟩,
    fun _ => ⟨exec_skips_when rfl beq_iff_eq, exec_skips_unless rfl bne_iff_ne⟩⟩

/-- Settles O41: one conditional skip on the key VX, or the fault record, by what VX is. -/
theorem skipOnKeyOrKeyIndexFault : Obligations.SkipOnKeyOrKeyIndexFault := by
  intro x
  refine ⟨(congrArg decodeWord (ofNat_eq_encodeXK 0xE x 0x9E)).trans (decodeWord_encode (.skp x)),
    (congrArg decodeWord (ofNat_eq_encodeXK 0xE x 0xA1)).trans (decodeWord_encode (.sknp x)),
    fun s k hk => ⟨?_, ?_⟩, fun s hx => ⟨?_, ?_⟩⟩
  · exact exec_skips_when (exec_skp_key hk) Iff.rfl
  · exact exec_skips_unless (exec_sknp_key hk) (by simp)
  · exact ⟨_, exec_skp_fault hx, rfl, rfl, encodeXK_toNat_comm 0xE x 0x9E, s.setFault_touches _ _ _⟩
  · exact ⟨_, exec_sknp_fault hx, rfl, rfl, encodeXK_toNat_comm 0xE x 0xA1,
      s.setFault_touches _ _ _⟩

end Sys2Proof.Machine
end

section
/-! SUPPORT. The numbers of the register and arithmetic instructions' words, what a written result
and flag read back as, and the flags and wrapped results as numbers (44_alu.md R84-R96). -/

namespace Sys2Proof.Machine

section words
variable {i : Instr} {x y : RegIdx}

/-- The word of an `XK` instruction, its digits in the order they are written
(30_encoding.md R49). -/
theorem decodeWord_of_digits_XK (op : BitVec 4) {nn : Byte} (hi : encode i = encodeXK op x nn) :
    decodeWord (BitVec.ofNat 16 (op.toNat * 4096 + x.val * 256 + nn.toNat)) = .ok i := by
  rw [ofNat_digits_eq_encodeXK, ← hi, decodeWord_encode]

/-- The word of a family 8 instruction, family and selector before X and Y
(30_encoding.md R56). -/
theorem decodeWord_of_family8 (n : BitVec 4) (hi : encode i = encodeXYN 0x8 x y n) :
    decodeWord (BitVec.ofNat 16 (0x8000 + n.toNat + x.val * 256 + y.val * 16)) = .ok i := by
  have hdigits : 0x8000 + n.toNat + x.val * 256 + y.val * 16 =
      (0x8 : BitVec 4).toNat * 4096 + x.val * 256 + y.val * 16 + n.toNat := by
    rw [show (0x8 : BitVec 4).toNat = 8 from rfl]
    omega
  rw [hdigits, ofNat_eq_encodeXYN, ← hi, decodeWord_encode]

end words

section results
variable {s : State} {i : Instr} {x : RegIdx} {r : Byte} {f : Bool}

theorem State.setReg_read_self (s : State) (x : RegIdx) (b : Byte) : (s.setReg x b).v[x] = b := by
  rw [State.setReg_read, if_pos rfl]

/-- An instruction whose one write is a result to VX. -/
theorem exec_writes_result (hi : exec i s = .next (s.setReg x r)) :
    ∃ t, exec i s = .next t ∧ t.v[x] = r ∧ OnlyTouches (fun p => p = .reg x) s t :=
  ⟨_, hi, s.setReg_read_self x r, s.setReg_touches x r⟩

/-- An instruction that writes a result to VX, then a flag to VF: the flag is what VF ends with, also
for X = F (44_alu.md R84). -/
theorem exec_writes_result_then_flag (hi : exec i s = .next (s.setResultFlag x r f)) :
    ∃ t, exec i s = .next t ∧ (x ≠ 15 → t.v[x] = r) ∧ t.v[15] = flagByte f ∧
      OnlyTouches (fun p => p = .reg x ∨ p = .reg 15) s t := by
  refine ⟨_, hi, fun hx => ?_, ?_, s.setResultFlag_touches x r f⟩
  · rw [State.setResultFlag_read, if_neg hx, if_pos rfl]
  · exact (s.setResultFlag_read x 15 r f).trans (if_pos rfl)

end results

section flags
variable (a b : Byte)

theorem flagByte_carryOut :
    flagByte (carryOut a b) = if a.toNat + b.toNat > 255 then 1 else 0 :=
  if_congr decide_eq_true_iff rfl rfl

theorem flagByte_noBorrow : flagByte (noBorrow a b) = if a.toNat ≥ b.toNat then 1 else 0 :=
  if_congr decide_eq_true_iff rfl rfl

/-- A byte's bit as the number that a flag of it holds (44_alu.md R93, R95). -/
theorem flagByte_getLsbD_toNat (k : Nat) :
    (flagByte (a.getLsbD k)).toNat = a.toNat / 2 ^ k % 2 := by
  rw [← Nat.toNat_testBit]
  show (flagByte (a.toNat.testBit k)).toNat = _
  cases a.toNat.testBit k <;> rfl

theorem flagByte_lowBit_toNat : (flagByte (lowBit a)).toNat = a.toNat % 2 := by
  rw [lowBit, flagByte_getLsbD_toNat, pow_zero, Nat.div_one]

theorem flagByte_highBit_toNat : (flagByte (highBit a)).toNat = a.toNat / 128 := by
  have ha := a.isLt
  rw [highBit, flagByte_getLsbD_toNat]
  omega

end flags

section numbers
variable (a b : Byte)

/-- A byte difference wraps mod 256 (44_alu.md R92, R94). -/
theorem byte_sub_toNat : ((a - b).toNat : Int) = ((a.toNat : Int) - b.toNat) % 256 := by
  rw [BitVec.toNat_sub]
  omega

theorem byte_shiftRight_one_toNat : (a >>> 1).toNat = a.toNat / 2 := by
  rw [BitVec.toNat_ushiftRight, Nat.shiftRight_eq_div_pow, pow_one]

/-- A left shift by one drops the bit it moves out (44_alu.md R95). -/
theorem byte_shiftLeft_one_toNat : (a <<< 1).toNat = a.toNat * 2 % 256 := by
  rw [BitVec.toNat_shiftLeft, Nat.shiftLeft_eq, pow_one]

end numbers

/-- With no byte presented the one taken is the draw's free value (60_exceptions.md R121; log
entry 3). -/
theorem State.nextRandom_free {s : State} (h : s.rndIn = []) :
    s.nextRandom = Config.randomByte s.draws := by
  unfold State.nextRandom
  rw [h]

/-- Settles O42: each is one write of VX. -/
theorem loadAddImmediateAndCopy : Obligations.LoadAddImmediateAndCopy := by
  intro x y nn
  refine ⟨decodeWord_of_digits_XK 0x6 rfl, decodeWord_of_digits_XK 0x7 rfl,
    decodeWord_of_family8 0x0 rfl, fun s => ⟨exec_writes_result rfl, ?_, exec_writes_result rfl⟩⟩
  obtain ⟨t, ht, hres, hframe⟩ := exec_writes_result (i := .addImm x nn) (s := s) rfl
  exact ⟨t, ht, hres ▸ BitVec.toNat_add _ _, hframe⟩

/-- Settles O43: each is one write of VX, whose bits are those of the bitwise operation. -/
theorem bitwiseOperations : Obligations.BitwiseOperations := by
  intro x y
  refine ⟨decodeWord_of_family8 0x1 rfl, decodeWord_of_family8 0x2 rfl,
    decodeWord_of_family8 0x3 rfl, fun s => ⟨?_, ?_, ?_⟩⟩
  · obtain ⟨t, ht, hres, hframe⟩ := exec_writes_result (i := .orReg x y) (s := s) rfl
    exact ⟨t, ht, fun k _ => hres ▸ BitVec.getLsbD_or, hframe⟩
  · obtain ⟨t, ht, hres, hframe⟩ := exec_writes_result (i := .andReg x y) (s := s) rfl
    exact ⟨t, ht, fun k _ => hres ▸ BitVec.getLsbD_and, hframe⟩
  · obtain ⟨t, ht, hres, hframe⟩ := exec_writes_result (i := .xorReg x y) (s := s) rfl
    exact ⟨t, ht, fun k _ => hres ▸ BitVec.getLsbD_xor, hframe⟩

/-- Settles O44: the result is the wrapped sum and the flag its carry. -/
theorem addRegistersThenCarry : Obligations.AddRegistersThenCarry := by
  intro x y
  refine ⟨decodeWord_of_family8 0x4 rfl, fun s => ?_⟩
  obtain ⟨t, ht, hres, hflag, hframe⟩ :=
    exec_writes_result_then_flag (i := .addReg x y) (s := s) rfl
  exact ⟨t, ht, fun hx => hres hx ▸ BitVec.toNat_add _ _, hflag.trans (flagByte_carryOut _ _),
    hframe⟩

/-- Settles O45: the result is the wrapped difference and the flag its no-borrow, with X and Y
exchanged in 8XY7. -/
theorem subtractRegistersThenNoBorrow : Obligations.SubtractRegistersThenNoBorrow := by
  intro x y
  refine ⟨decodeWord_of_family8 0x5 rfl, decodeWord_of_family8 0x7 rfl, fun s => ⟨?_, ?_⟩⟩
  · obtain ⟨t, ht, hres, hflag, hframe⟩ :=
      exec_writes_result_then_flag (i := .subReg x y) (s := s) rfl
    exact ⟨t, ht, fun hx => hres hx ▸ byte_sub_toNat _ _, hflag.trans (flagByte_noBorrow _ _),
      hframe⟩
  · obtain ⟨t, ht, hres, hflag, hframe⟩ :=
      exec_writes_result_then_flag (i := .subn x y) (s := s) rfl
    exact ⟨t, ht, fun hx => hres hx ▸ byte_sub_toNat _ _, hflag.trans (flagByte_noBorrow _ _),
      hframe⟩

/-- Settles O46: the result is half or twice VX, and the flag the low or the high bit of the old
VX. -/
theorem shiftsThenShiftedOutBit : Obligations.ShiftsThenShiftedOutBit := by
  intro x y
  refine ⟨decodeWord_of_family8 0x6 rfl, decodeWord_of_family8 0xE rfl, fun s => ⟨?_, ?_⟩⟩
  · obtain ⟨t, ht, hres, hflag, hframe⟩ :=
      exec_writes_result_then_flag (i := .shr x y) (s := s) rfl
    exact ⟨t, ht, fun hx => hres hx ▸ byte_shiftRight_one_toNat _,
      hflag ▸ flagByte_lowBit_toNat _, hframe⟩
  · obtain ⟨t, ht, hres, hflag, hframe⟩ :=
      exec_writes_result_then_flag (i := .shl x y) (s := s) rfl
    exact ⟨t, ht, fun hx => hres hx ▸ byte_shiftLeft_one_toNat _,
      hflag ▸ flagByte_highBit_toNat _, hframe⟩

/-- Settles O47: the byte taken is the presented one or the free one, and VX is it masked. -/
theorem rndMasksARandomByte : Obligations.RndMasksARandomByte := by
  intro x nn
  refine ⟨decodeWord_of_digits_XK 0xC rfl, fun s => ?_⟩
  obtain ⟨t, ht⟩ := exec_next (.rnd x nn) s
  have hres : t.v[x] = s.nextRandom &&& nn := by
    cases ht
    exact State.setReg_read_self _ x _
  exact ⟨t, ht, fun b rest hin => State.nextRandom_presented s hin ▸ hres,
    fun hin => State.nextRandom_free hin ▸ hres, exec_touches ht⟩

end Sys2Proof.Machine
end

section
/-! SUPPORT. What the address register instructions leave in I, what FX33 and FX55 leave in memory,
and what FX65 reads back of it (45_index_memory.md R97-R102). -/

namespace Sys2Proof.Machine

section words
variable {i : Instr} {x : RegIdx}

/-- The word of a family F instruction, family and selector before X (30_encoding.md R58). -/
theorem decodeWord_of_familyF (nn : Byte) (hi : encode i = encodeXK 0xF x nn) :
    decodeWord (BitVec.ofNat 16 (0xF000 + nn.toNat + x.val * 256)) = .ok i :=
  (congrArg decodeWord (ofNat_eq_encodeXK 0xF x nn)).trans (hi ▸ decodeWord_encode i)

end words

section addressRegister
variable {s : State} {i : Instr} {w : Word} {n : Nat}

/-- An instruction whose one write is I (45_index_memory.md R97-R99). -/
theorem exec_writes_addressReg (hi : exec i s = .next (s.setI w)) (hw : w.toNat = n) :
    ∃ t, exec i s = .next t ∧ t.i.toNat = n ∧ OnlyTouches (fun p => p = .addressReg) s t :=
  ⟨_, hi, hw, s.setI_touches w⟩

/-- FX1E's sum wraps mod 2^16 (45_index_memory.md R98). -/
theorem add_widen_toNat (w : Word) (b : Byte) :
    (w + widen b).toNat = (w.toNat + b.toNat) % 65536 := by
  rw [BitVec.toNat_add, widen_toNat]

end addressRegister

section stores
variable {s t : State} {x : RegIdx}

/-- FX55 leaves each register of V0..VX in the byte of its number after I
(45_index_memory.md R101). -/
theorem exec_stRegs_readByte (hm : s.mem.wf) (h : exec (.stRegs x) s = .next t) {k : RegIdx}
    (hk : k ≤ x) : t.readByte (s.i.toNat + k.val) = s.v[k] := by
  cases h
  have hlen := s.regPrefix_length x
  have hin : k.val < (s.regPrefix x).length := hlen ▸ Nat.lt_succ_of_le hk
  exact (State.writeBytes_read s hm _ _ (by omega) k hin).trans (s.regPrefix_read x k hin)

theorem exec_stRegs_i (h : exec (.stRegs x) s = .next t) : t.i = s.i :=
  exec_touches h .addressReg (by simp [MayWrite, BytesFrom])

/-- FX65 reads V0..VX from the bytes at I and keeps the other registers
(45_index_memory.md R102). -/
theorem exec_ldRegs_read (h : exec (.ldRegs x) s = .next t) (k : RegIdx) :
    t.v[k] = if k ≤ x then s.readByte (s.i.toNat + k.val) else s.v[k] := by
  rw [exec_ldRegs_eq h]
  exact s.loadedRegs_read x k

end stores

/-- Settles O48: each is one write of I. -/
theorem addressRegisterWrites : Obligations.AddressRegisterWrites := fun nnn x =>
  ⟨(congrArg decodeWord (ofNat_eq_encodeA 0xA nnn)).trans (decodeWord_encode (.ldI nnn)),
    decodeWord_of_familyF 0x1E rfl, decodeWord_of_familyF 0x29 rfl, fun s =>
    ⟨exec_writes_addressReg rfl (zext16_toNat nnn),
      exec_writes_addressReg rfl (add_widen_toNat s.i s.v[x]),
      exec_writes_addressReg rfl (fontAddr_toNat s.v[x])⟩⟩

/-- Settles O49: each of the three bytes written is one digit. -/
theorem storeDecimalDigits : Obligations.StoreDecimalDigits := by
  refine fun x => ⟨decodeWord_of_familyF 0x33 rfl, fun s hm => ?_⟩
  have hread := State.writeBytes_read s hm s.i.toNat
    [hundredsDigit s.v[x], tensDigit s.v[x], unitsDigit s.v[x]] (by simp)
  refine ⟨_, rfl, ?_, ?_, ?_, exec_touches (i := .ldB x) rfl⟩
  · exact (congrArg BitVec.toNat (hread 0 (by simp))).trans (hundredsDigit_toNat _)
  · exact (congrArg BitVec.toNat (hread 1 (by simp))).trans (tensDigit_toNat _)
  · exact (congrArg BitVec.toNat (hread 2 (by simp))).trans (unitsDigit_toNat _)

/-- Settles O50. -/
theorem storeRegisters : Obligations.StoreRegisters := by
  refine fun x => ⟨decodeWord_of_familyF 0x55 rfl, fun s hm => ?_⟩
  obtain ⟨t, ht⟩ := exec_next (.stRegs x) s
  exact ⟨t, ht, fun k hk => exec_stRegs_readByte hm ht hk, exec_touches ht⟩

/-- Settles O51. -/
theorem loadRegisters : Obligations.LoadRegisters := by
  refine fun x => ⟨decodeWord_of_familyF 0x65 rfl, fun s => ?_⟩
  obtain ⟨t, ht⟩ := exec_next (.ldRegs x) s
  exact ⟨t, ht, fun k hk => (exec_ldRegs_read ht k).trans (if_pos hk), exec_touches ht⟩

/-- Settles O52: FX55 leaves I alone, so FX65 reads the bytes that FX55 wrote. -/
theorem storedRegistersAreLoadedBack : Obligations.StoredRegistersAreLoadedBack := by
  intro s t u x v hm hst hld k
  have hload : u.v[k] = if k ≤ x then t.readByte (t.i.toNat + k.val) else v[k] :=
    exec_ldRegs_read hld k
  rw [hload, exec_stRegs_i hst]
  split
  case isTrue hk => exact exec_stRegs_readByte hm hst hk
  case isFalse => rfl

end Sys2Proof.Machine
end

section
/-! SUPPORT. The transfers between VX and the timers, and the timer that FX07 reads in a whole step
(46_timer_key.md R103, R105, R106). -/

namespace Sys2Proof.Machine

section timerTransfers
variable {s : State} {x : RegIdx}

/-- DT after one tick: one less, down to 0, when the tick runs the counter out
(40_cycle.md R65). -/
theorem State.timerTick_dt_toNat (s : State) :
    s.timerTick.dt.toNat = if s.tc ≤ 1 then s.dt.toNat - 1 else s.dt.toNat := by
  simp only [State.timerTick_dt, State.tickDue_iff, apply_ite BitVec.toNat, countDown_toNat]

/-- A running engine's FX07 reads DT as this step's tick leaves it (46_timer_key.md R103). -/
theorem step_ldVxDt (hrun : s.faultCode = .noFault) (hd : decodeWord s.fetch = .ok (.ldVxDt x)) :
    step s = .next (s.beginStep.setReg x s.timerTick.dt) :=
  step_decoded s (State.halted_eq_false_iff.2 hrun) hd

end timerTransfers

/-- Settles O53: each transfer is one write, and a whole step ticks before FX07 reads. -/
theorem timerTransfers : Obligations.TimerTransfers := by
  refine fun x => ⟨decodeWord_of_familyF 0x07 rfl, decodeWord_of_familyF 0x15 rfl,
    decodeWord_of_familyF 0x18 rfl, fun s => ⟨exec_writes_result rfl, ?_, ?_, fun hrun hd => ?_⟩⟩
  · exact ⟨s.setDt s.v[x], rfl, s.setDt_dt _, s.setDt_touches _⟩
  · exact ⟨s.setSt s.v[x], rfl, s.setSt_st _, rfl, s.setSt_touches _⟩
  · refine ⟨_, step_ldVxDt hrun hd, ?_⟩
    rw [State.setReg_read_self, State.timerTick_dt_toNat]

end Sys2Proof.Machine
end

section
/-! SUPPORT. The fault table of a whole step, and what the host's transactions leave: the invariant,
the loaded bytes, the keypad and the random input (60_exceptions.md R107, R120-R125). -/

namespace Sys2Proof.Machine

section faultTable
variable {s t : State} {w : Word} {i : Instr} {c d : FaultCode}

/-- Each instruction has one word (30_encoding.md R53). -/
theorem decodeWord_eq_ok_iff : decodeWord w = .ok i ↔ w = encode i :=
  ⟨fun h => (encodeOfDecodeIsTheWord w i h).symm, fun h => h ▸ decodeWord_encode i⟩

/-- The numbers of FAULT_CODE are distinct (60_exceptions.md R107). -/
theorem FaultCode.code_inj : c.code = d.code ↔ c = d := by
  cases c <;> cases d <;> decide

/-- A word explains a fault in two ways: it is no instruction, or it is one that takes the fault
(60_exceptions.md R107). -/
theorem faultExplained_iff : FaultExplained s w c ↔
    (c = .unknownInstruction ∧ wordLegal w = false) ∨
      ∃ i, decodeWord w = .ok i ∧ FaultsWith s i c := by
  constructor
  · intro h
    cases c with
    | noFault => exact h.elim
    | unknownInstruction => exact .inl ⟨rfl, h⟩
    | stackOverflow =>
      obtain ⟨hs, nnn, hd⟩ := h
      exact .inr ⟨_, hd, .overflow nnn hs⟩
    | stackUnderflow =>
      obtain ⟨hs, hw⟩ := h
      exact .inr ⟨.ret, decodeWord_eq_ok_iff.2 hw, .underflow hs⟩
    | keyIndex =>
      obtain ⟨x, hx, hd | hd⟩ := h
      · exact .inr ⟨_, hd, .skp x hx⟩
      · exact .inr ⟨_, hd, .sknp x hx⟩
  · rintro (⟨rfl, hw⟩ | ⟨i, hd, hf⟩)
    · exact hw
    · exact encodeOfDecodeIsTheWord w i hd ▸ hf.explained

/-- Under its condition an instruction takes its fault (60_exceptions.md R109, R110, R112). -/
theorem FaultsWith.exec_takeFault (h : FaultsWith s i c) :
    exec i s = .next (s.takeFault c (encode i)) := by
  cases h with
  | overflow nnn hs => exact exec_call_overflow hs
  | underflow hs => exact exec_ret_underflow hs
  | skp x hx => exact exec_skp_fault hx
  | sknp x hx => exact exec_sknp_fault hx

/-- A running engine's step leaves a fault code iff the fetched word explains that fault in the
state in which it executes (60_exceptions.md R107). -/
theorem step_faultCode_iff (hrun : s.faultCode = .noFault) (h : step s = .next t)
    (hc : c ≠ .noFault) : t.faultCode = c ↔ FaultExplained s.beginStep s.fetch c := by
  rw [faultExplained_iff]
  constructor
  · rintro rfl
    rcases step_running_cases hrun h with ⟨i, hd, hi⟩ | ⟨⟨e, he⟩, rfl⟩
    · rcases exec_fault_cases hi with ⟨hkeep, -, -⟩ | ⟨c, hf, rfl⟩
      · exact absurd (hkeep.trans hrun) hc
      · exact .inr ⟨i, hd, hf⟩
    · exact .inl ⟨rfl, wordLegal_eq_false_of_rejected he⟩
  · have hh := State.halted_eq_false_iff.2 hrun
    rintro (⟨rfl, hw⟩ | ⟨i, hd, hf⟩)
    · obtain ⟨e, he⟩ := rejected_of_not_wordLegal hw
      cases h.symm.trans (step_unknown s hh he)
      rfl
    · cases h.symm.trans ((step_decoded s hh hd).trans hf.exec_takeFault)
      rfl

/-- Settles O11: each row of the table is the explanation of one fault code. -/
theorem faultsExactlyAsTheTableSays : Obligations.FaultsExactlyAsTheTableSays := by
  intro s t hrun h
  have hcode : ∀ c ≠ .noFault, t.faultCode.code = c.code ↔ FaultExplained s.beginStep s.fetch c :=
    fun c hc => FaultCode.code_inj.trans (step_faultCode_iff hrun h hc)
  refine ⟨hcode .unknownInstruction nofun, hcode .stackOverflow nofun, ?_, hcode .keyIndex nofun⟩
  rw [decodeWord_eq_ok_iff]
  exact hcode .stackUnderflow nofun

end faultTable

section transactions
variable {s : State}

/-- A load that fits the program area (60_exceptions.md R124). -/
theorem State.hostLoad_fits {bytes : List Byte} (h : bytes.length ≤ 3584) :
    s.hostLoad bytes = (s.writeBytes 0x200 bytes, .loaded) := if_neg (Nat.not_lt.2 h)

/-- A load that does not fit it (60_exceptions.md R125). -/
theorem State.hostLoad_too_long {bytes : List Byte} (h : 3584 < bytes.length) :
    s.hostLoad bytes = (s, .loadCapacityError) := if_pos h

/-- Settles O24: a load that fits is one write of its bytes. -/
theorem loadCopiesOrRefusesAll : Obligations.LoadCopiesOrRefusesAll := fun s bytes hm =>
  ⟨fun hl => ⟨_, State.hostLoad_fits hl,
      s.writeBytes_read hm 0x200 bytes (hl.trans (by decide)), s.writeBytes_touches 0x200 bytes⟩,
    State.hostLoad_too_long⟩

/-- The invariant is kept after a reset to a parameter of at least 1 (10_state.md R24, R32). -/
theorem State.resetAs_inv {d : Nat} (hd : 1 ≤ d) (rnd : List Byte) (n : Nat) :
    (State.resetAs d rnd n).Inv where
  memCanonical := Memory.reset_wf d
  tcPositive := hd
  tcBounded := le_rfl
  runningRecord _ := ⟨rfl, rfl⟩
  haltedRecord := absurd rfl
  unknownRecord := nofun
  overflowRecord := nofun
  underflowRecord := nofun
  keyRecord := nofun

/-- The invariant says nothing of the keypad and the random input, and of the memory only that it is
canonical: what the host writes between steps keeps it. -/
theorem State.Inv.withInputs (hs : s.Inv) {m : Memory} (hm : m.wf) (keys : Vector Bool 16)
    (rnd : List Byte) : ({ s with mem := m, keys := keys, rndIn := rnd } : State).Inv where
  memCanonical := hm
  tcPositive := hs.tcPositive
  tcBounded := hs.tcBounded
  runningRecord := hs.runningRecord
  haltedRecord := hs.haltedRecord
  unknownRecord := hs.unknownRecord
  overflowRecord := hs.overflowRecord
  underflowRecord := hs.underflowRecord
  keyRecord := hs.keyRecord

theorem State.Inv.setRndIn (hs : s.Inv) (bs : List Byte) : (s.setRndIn bs).Inv :=
  hs.withInputs hs.memCanonical s.keys bs

theorem State.Inv.setKey (hs : s.Inv) (k : KeyIdx) (b : Bool) : (s.setKey k b).Inv :=
  hs.withInputs hs.memCanonical (s.keys.set k b) s.rndIn

/-- A load keeps the invariant, whether or not it is taken (60_exceptions.md R124, R125). -/
theorem State.Inv.hostLoad (hs : s.Inv) (bytes : List Byte) : (s.hostLoad bytes).1.Inv := by
  rcases Nat.lt_or_ge 3584 bytes.length with hl | hl
  · rw [State.hostLoad_too_long hl]
    exact hs
  · rw [State.hostLoad_fits hl]
    exact hs.withInputs (Memory.storeBytes_wf hs.memCanonical _ bytes) s.keys s.rndIn

/-- The Step transaction keeps the invariant, because its step does (60_exceptions.md R123). -/
theorem State.Inv.hostStep (hs : s.Inv) (b : Byte) : (s.hostStep b).1.Inv := by
  obtain ⟨t, ht⟩ := everyStepAnswersANextState (s.setRndIn [b])
  rw [State.hostStep_of_step ht]
  exact (everyStepKeepsTheInvariant _ t (hs.setRndIn [b]) ht).setRndIn s.rndIn

/-- Settles O23, by the case of each transaction. -/
theorem everyTransactionKeepsTheInvariant : Obligations.EveryTransactionKeepsTheInvariant := by
  intro s q hs
  cases q with
  | reset => exact State.resetAs_inv (hs.tcPositive.trans hs.tcBounded) s.rndIn s.draws
  | load bytes => exact hs.hostLoad bytes
  | step rnd => exact hs.hostStep rnd
  | keyDown k => exact hs.setKey k true
  | keyUp k => exact hs.setKey k false
  | readFrame | readSound | readFault => exact hs

/-- The key that an event sets (60_exceptions.md R120). -/
theorem State.setKey_read_self (s : State) (k : KeyIdx) (b : Bool) : (s.setKey k b).keys[k] = b :=
  Vector.getElem_set_self _

/-- Settles O25: each event is one write of its key. -/
theorem keyEventsSetOneKey : Obligations.KeyEventsSetOneKey := fun s k =>
  ⟨s.setKey_read_self k true, s.setKey_read_self k false, s.setKey_touches k true,
    s.setKey_touches k false⟩

end transactions

section randomInput
variable {s t : State} {i : Instr} {x : RegIdx} {nn : Byte}

/-- A running engine's CXNN takes the first presented byte, or else one free value
(60_exceptions.md R121; log entry 3). -/
theorem step_rnd_takesRandom (hrun : s.faultCode = .noFault)
    (hd : decodeWord s.fetch = .ok (.rnd x nn)) (h : step s = .next t) :
    t.rndIn = s.rndIn.tail ∧ t.draws = if s.rndIn = [] then s.draws + 1 else s.draws := by
  cases h.symm.trans (step_decoded s (State.halted_eq_false_iff.2 hrun) hd)
  exact ⟨s.beginStep.takeRandom_rndIn, s.beginStep.takeRandom_draws⟩

theorem mayWrite_rndIn_or_draws {p : Part} (hp : p = .rndIn ∨ p = .draws) (h : MayWrite i s p) :
    ∃ x nn, i = .rnd x nn := by
  rcases hp with rfl | rfl <;> cases i <;> simp [MayWrite, FaultPart, BytesFrom] at h ⊢

/-- A step whose word is no CXNN leaves the random input and the free values alone
(60_exceptions.md R121). -/
theorem step_keepsRandom (h : step s = .next t)
    (hno : ∀ x nn, decodeWord s.fetch ≠ .ok (.rnd x nn)) {p : Part}
    (hp : p = .rndIn ∨ p = .draws) : p.Agrees s t := by
  by_contra hne
  have hpart : ¬ StepPart p := by rcases hp with rfl | rfl <;> simp [StepPart, FaultPart]
  obtain ⟨i, hd, hi⟩ := step_changed h hpart hne
  obtain ⟨x, nn, rfl⟩ := mayWrite_rndIn_or_draws hp hi
  exact hno x nn hd

/-- Settles O27: a CXNN takes the byte, and no other instruction may write the random input. -/
theorem onlyRndTakesOneRandomByte : Obligations.OnlyRndTakesOneRandomByte := by
  intro s t h
  refine ⟨fun hrun x nn hd => ?_, fun hno =>
    ⟨step_keepsRandom h hno (.inl rfl), step_keepsRandom h hno (.inr rfl)⟩⟩
  obtain ⟨hin, hdraws⟩ := step_rnd_takesRandom hrun hd h
  exact ⟨fun b rest hr => by simp [hin, hdraws, hr], fun hr => by simp [hin, hdraws, hr]⟩

end randomInput

end Sys2Proof.Machine
end

section
/-! SUPPORT. The step right after reset, with no program loaded (70_reset_and_hazards.md R129). -/

namespace Sys2Proof.Machine

/-- After reset PC lies above the font, where memory reads zero (20_memory.md R36, R40). -/
theorem State.resetAs_fetch (d : Nat) (rnd : List Byte) (n : Nat) :
    (State.resetAs d rnd n).fetch = 0x0000 := by
  have hzero : ∀ a, 0x0A0 ≤ a → a < 4096 → (State.resetAs d rnd n).readByte a = 0 :=
    fun a hfont hmem =>
      (State.resetAs_readByte d rnd n hmem).trans (Memory.initByte_above_font hfont)
  exact congrArg₂ joinBytes (hzero 0x200 (by decide) (by decide))
    (hzero 0x201 (by decide) (by decide))

/-- Settles O20: the word fetched at reset is illegal, and the step takes the fault of O9 with it. -/
theorem stepBeforeLoadIsUnknownInstruction :
    Obligations.StepBeforeLoadIsUnknownInstruction := by
  have hfetch : State.reset.fetch = 0x0000 := State.resetAs_fetch Config.timerDivider [] 0
  have hillegal : wordLegal State.reset.fetch = false := by
    rw [hfetch]
    decide
  obtain ⟨t, hstep, hcode, -, hfaultPc, hfaultWord, hpc, -⟩ :=
    illegalWordTakesUnknownInstruction State.reset rfl hillegal
  exact ⟨hfetch, t, hstep, hcode, hfaultPc, hfaultWord.trans hfetch, hpc⟩

end Sys2Proof.Machine
end
